-- ==== Sys2Proof/Word.lean ====
section
/-! DEFINITION. The two unsigned words of the spec (spec/00_scope.md R12): `u8` and `u16`.

Counts, indices, byte counts and milliseconds are natural numbers that never wrap (R12), so they are `Nat`.
The byte-order helpers `hi8`, `lo8`, `be16` stand in Decode.lean. -/

namespace Sys2Proof

/-- `u8` of R12: one byte of a command, a payload or the wire. -/
abbrev Byte := BitVec 8

/-- `u16` of R12: a window coordinate, a pixel, or a geometry field of CFG. -/
abbrev Half := BitVec 16

end Sys2Proof
end

