-- ==== Sys2Proof/Syntax.lean ====
section
/-! DEFINITION. The whole syntax: the operand types of spec/30_encoding.md R92, the 19 frame kinds of
Table 30-B, and `Instr`, one constructor per row of spec/opcode_table.json (5 host operations of Table 30-A
and 19 frame kinds of Table 30-B). -/

namespace Sys2Proof

/-- `Rotation` (10_state.md R22): "one of {0°, 90°, 180°, 270°}"; the codes are `rotationCode` in Decode.lean. -/
inductive Rotation where
  | deg0 | deg90 | deg180 | deg270
  deriving DecidableEq, Repr

/-- The colour order operand of INITIALIZE (10_state.md R23). -/
inductive ColorOrder where
  | bgr | rgb
  deriving DecidableEq, Repr

/-- An electrical or mode-select level (10_state.md R29): LOW = 0, HIGH = 1. -/
inductive Level where
  | low | high
  deriving DecidableEq, Repr

/-- An AddressWindow (20_memory.md R69, 30_encoding.md R92): column start and end, row start and end, both ends
inclusive, "in panel physical coordinates". -/
structure Window where
  xs : Half
  xe : Half
  ys : Half
  ye : Half
  deriving DecidableEq, Repr

/-- The 5 host operations of Table 30-A (30_encoding.md R91), without their operands. -/
inductive HostOp where
  | hwReset | init | flush | setWindow | send
  deriving DecidableEq, Repr

/-- The 19 frame kinds of Table 30-B (30_encoding.md R98). -/
inductive FrameKind where
  | frameRateA | frameRateB | frameRateC | inversionCtrl
  | powerCtrl1 | powerCtrl2 | powerCtrl3 | powerCtrl4 | powerCtrl5
  | vcomLevel | gammaA | gammaB | pixelFormat | orientation
  | colRange | rowRange | memWrite | sleepExit | displayOn
  deriving DecidableEq, Repr

/-- A CommandFrame (30_encoding.md R93): "one command byte + zero or more data bytes". -/
structure Frame where
  cmd : Byte
  data : List Byte
  deriving DecidableEq, Repr

/-- The instructions of the block (30_encoding.md R90): the host operations, then the frame kinds. A frame kind whose
payload is a constant parameter, or is computed from ROT and CORD, has no operand (42_initializer.md R183). -/
inductive Instr where
  /-- HW_RESET, R140. -/
  | hwReset
  /-- INITIALIZE, R155. -/
  | init (rot : Rotation) (order : ColorOrder)
  /-- FLUSH, R215. -/
  | flush (w : Window)
  /-- SET_WINDOW, R200. -/
  | setWindow (w : Window)
  /-- SEND, R120. -/
  | send (cmd : Byte) (data : List Byte)
  /-- FRAME_RATE_A, slot 0, R159. -/
  | frameRateA
  /-- FRAME_RATE_B, slot 1, R160. -/
  | frameRateB
  /-- FRAME_RATE_C, slot 2, R161. -/
  | frameRateC
  /-- INVERSION_CTRL, slot 3, R162. -/
  | inversionCtrl
  /-- POWER_CTRL_1, slot 4, R163. -/
  | powerCtrl1
  /-- POWER_CTRL_2, slot 5, R164. -/
  | powerCtrl2
  /-- POWER_CTRL_3, slot 6, R165. -/
  | powerCtrl3
  /-- POWER_CTRL_4, slot 7, R166. -/
  | powerCtrl4
  /-- POWER_CTRL_5, slot 8, R167. -/
  | powerCtrl5
  /-- VCOM_LEVEL, slot 9, R168. -/
  | vcomLevel
  /-- GAMMA_A, slot 10, R169. -/
  | gammaA
  /-- GAMMA_B, slot 11, R170. -/
  | gammaB
  /-- PIXEL_FORMAT, slot 12, R171. -/
  | pixelFormat
  /-- ORIENTATION, slot 13, R172. -/
  | orientation
  /-- COL_RANGE, R201; slot 14 (R173) with the pre-seed operands. -/
  | colRange (xs xe : Half)
  /-- ROW_RANGE, R202; slot 15 (R174) with the pre-seed operands. -/
  | rowRange (ys ye : Half)
  /-- MEM_WRITE, R203. -/
  | memWrite
  /-- SLEEP_EXIT, slot 16, R175. -/
  | sleepExit
  /-- DISPLAY_ON, slot 17, R176. -/
  | displayOn
  deriving DecidableEq, Repr

/-- A descriptor as the model carries it (DESIGN CHOICE, safe: notes/assumptions/3.md): the two encoding levels of 30_encoding.md R90 kept
apart, each a byte string whose length is out of band. -/
inductive Descriptor where
  /-- A host operation: selector byte, then operand bytes. -/
  | host (bytes : List Byte)
  /-- A frame kind: command byte, then operand bytes (none where the payload is constant). -/
  | frame (bytes : List Byte)
  deriving DecidableEq, Repr

/-- Why a descriptor is rejected, by name (30_encoding.md R100, R101; 93_implementation_defined.md U11). -/
inductive DecodeError where
  /-- No byte at all. -/
  | emptyDescriptor
  /-- A bit above the 3-bit selector is set. -/
  | selectorOutOfRange
  /-- Selector 0, 6 or 7 (R100). -/
  | reservedSelector
  /-- More or fewer operand bytes than the operation has. -/
  | wrongLength
  /-- A rotation code above 3 (U11). -/
  | rotationCode
  /-- A colour order code above 1 (U11). -/
  | orderCode
  /-- A command byte that is none of the 19 (R98, R102). -/
  | unknownCommand
  deriving DecidableEq, Repr

end Sys2Proof
end

