-- ==== Sys2Proof/Config.lean ====
section
/-! DEFINITION. The parameters of the block: exactly the rows of spec/00_scope.md Table 00-A (R10), as plain data.

`Cfg` is the part that the PanelHandle keeps in its CFG registers (10_state.md Table 10-A, R21); `Params` is the rest:
"parameters of the step relation" (10_state.md R39). Both are fixed at block reset and no operation writes them. The
model takes every OPEN parameter as data of the state, so a theorem over every state is a theorem over every parameter
set; the default values and the constraints stand in Machine/Parameters.lean. -/

namespace Sys2Proof

/-- CFG, Table 10-A: the fields and their widths. -/
structure Cfg where
  nativeW : Half
  nativeH : Half
  virtW : Half
  virtH : Half
  xOffset : Half
  yOffset : Half
  /-- "read by no rule" (R21). -/
  writeOnly : Bool
  /-- `none`: the transport has no limit (R21). -/
  maxXfer : Option Nat
  deriving DecidableEq, Repr

/-- The five requested delays, in milliseconds (R11). -/
structure Delays where
  rstAssert : Nat
  rstHold : Nat
  rstSettle : Nat
  sleepExit : Nat
  displayOn : Nat
  deriving DecidableEq, Repr

/-- BIT_MX, BIT_MY, BIT_MV, BIT_RGB. -/
structure Masks where
  mx : Byte
  my : Byte
  mv : Byte
  rgb : Byte
  deriving DecidableEq, Repr

/-- CMD_x, one byte per frame kind (Table 30-B). -/
structure CmdBytes where
  frameRateA : Byte
  frameRateB : Byte
  frameRateC : Byte
  inversionCtrl : Byte
  powerCtrl1 : Byte
  powerCtrl2 : Byte
  powerCtrl3 : Byte
  powerCtrl4 : Byte
  powerCtrl5 : Byte
  vcomLevel : Byte
  gammaA : Byte
  gammaB : Byte
  pixelFormat : Byte
  orientation : Byte
  colRange : Byte
  rowRange : Byte
  memWrite : Byte
  sleepExit : Byte
  displayOn : Byte
  deriving DecidableEq, Repr

/-- P_x, one byte string per constant-payload frame (Table 42-A). -/
structure Payloads where
  frameRateA : List Byte
  frameRateB : List Byte
  frameRateC : List Byte
  inversionCtrl : List Byte
  powerCtrl1 : List Byte
  powerCtrl2 : List Byte
  powerCtrl3 : List Byte
  powerCtrl4 : List Byte
  powerCtrl5 : List Byte
  vcomLevel : List Byte
  gammaA : List Byte
  gammaB : List Byte
  pixelFormat : List Byte
  deriving DecidableEq, Repr

/-- The parameters of Table 00-A that no CFG register holds. -/
structure Params where
  delays : Delays
  masks : Masks
  cmd : CmdBytes
  payload : Payloads
  /-- PRESEED_XS, PRESEED_XE, PRESEED_YS, PRESEED_YE. -/
  preseed : Window
  /-- RST_ACTIVE_LEVEL, "not used by any rule". -/
  rstActiveLevel : Level
  deriving DecidableEq, Repr

end Sys2Proof
end

