-- ==== Sys2Proof/Machine/Parameters.lean ====
section
/-! DEFINITION. The parameters' accessors, their constraints (spec/70_reset_and_hazards.md R284, spec/00_scope.md
Table 00-A, spec/42_initializer.md R158) and their default values (Table 00-A; spec/93_implementation_defined.md G1 to
G5, G8: general knowledge of the controller class, never a premise of a statement). -/

namespace Sys2Proof

/-- The 19 frame kinds, in the order of Table 30-B. -/
def allKinds : List FrameKind :=
  [.frameRateA, .frameRateB, .frameRateC, .inversionCtrl, .powerCtrl1, .powerCtrl2, .powerCtrl3, .powerCtrl4,
   .powerCtrl5, .vcomLevel, .gammaA, .gammaB, .pixelFormat, .orientation, .colRange, .rowRange, .memWrite,
   .sleepExit, .displayOn]

/-- The value of `CMD_<kind>` (R98). -/
def cmdOf (c : CmdBytes) : FrameKind → Byte
  | .frameRateA => c.frameRateA
  | .frameRateB => c.frameRateB
  | .frameRateC => c.frameRateC
  | .inversionCtrl => c.inversionCtrl
  | .powerCtrl1 => c.powerCtrl1
  | .powerCtrl2 => c.powerCtrl2
  | .powerCtrl3 => c.powerCtrl3
  | .powerCtrl4 => c.powerCtrl4
  | .powerCtrl5 => c.powerCtrl5
  | .vcomLevel => c.vcomLevel
  | .gammaA => c.gammaA
  | .gammaB => c.gammaB
  | .pixelFormat => c.pixelFormat
  | .orientation => c.orientation
  | .colRange => c.colRange
  | .rowRange => c.rowRange
  | .memWrite => c.memWrite
  | .sleepExit => c.sleepExit
  | .displayOn => c.displayOn

/-- "A kind is recognised from its command byte alone" (R98); `none` for a byte that is none of the 19. -/
def kindOfCmd (c : CmdBytes) (b : Byte) : Option FrameKind :=
  allKinds.find? fun k => cmdOf c k == b

/-- The constant payloads P_x, in the order of Table 42-A. -/
def allPayloads (p : Payloads) : List (List Byte) :=
  [p.frameRateA, p.frameRateB, p.frameRateC, p.inversionCtrl, p.powerCtrl1, p.powerCtrl2, p.powerCtrl3,
   p.powerCtrl4, p.powerCtrl5, p.vcomLevel, p.gammaA, p.gammaB, p.pixelFormat]

/-- The five delay minimums of Table 00-A (R11, Table 70-A). -/
def delaysWf (d : Delays) : Bool :=
  decide (1 ≤ d.rstAssert) && decide (10 ≤ d.rstHold) && decide (120 ≤ d.rstSettle) &&
    decide (120 ≤ d.sleepExit) && decide (120 ≤ d.displayOn)

/-- A mask of exactly one bit. -/
def singleBit (b : Byte) : Bool :=
  [0x01#8, 0x02#8, 0x04#8, 0x08#8, 0x10#8, 0x20#8, 0x40#8, 0x80#8].contains b

/-- "four pairwise different single-bit masks" (Table 00-A). -/
def masksWf (m : Masks) : Bool :=
  singleBit m.mx && singleBit m.my && singleBit m.mv && singleBit m.rgb && decide ([m.mx, m.my, m.mv, m.rgb].Nodup)

/-- The 19 command bytes are pairwise different (R98). -/
def cmdWf (c : CmdBytes) : Bool :=
  decide ((allKinds.map (cmdOf c)).Nodup)

/-- Both gamma payloads have 16 bytes, and no payload has more (R158). -/
def payloadWf (p : Payloads) : Bool :=
  decide (p.gammaA.length = 16) && decide (p.gammaB.length = 16) && (allPayloads p).all fun d => decide (d.length ≤ 16)

/-- The geometry: NATIVE is 128 × 128, the visible area lies inside the virtual extent, MAX_XFER is none or at least 16
(Table 00-A; that NATIVE is no default: DEDUCED, safe: notes/assumptions/11.md). -/
def cfgWf (g : Cfg) : Bool :=
  decide (g.nativeW = 128#16) && decide (g.nativeH = 128#16) &&
    decide (g.xOffset.toNat + g.nativeW.toNat ≤ g.virtW.toNat) &&
    decide (g.yOffset.toNat + g.nativeH.toNat ≤ g.virtH.toNat) &&
    (match g.maxXfer with
     | none => true
     | some m => decide (16 ≤ m))

/-- The pre-seed window is well-formed under every rotation (R158): each range ordered and below `min(VIRT_W, VIRT_H)`. -/
def preseedWf (g : Cfg) (w : Window) : Bool :=
  decide (w.xs ≤ w.xe) && decide (w.xe.toNat < min g.virtW.toNat g.virtH.toNat) &&
    decide (w.ys ≤ w.ye) && decide (w.ye.toNat < min g.virtW.toNat g.virtH.toNat)

/-- Parameter well-formedness (R284): every constraint of Table 00-A and of R158. -/
def parametersWf (g : Cfg) (p : Params) : Bool :=
  cfgWf g && delaysWf p.delays && masksWf p.masks && cmdWf p.cmd && payloadWf p.payload && preseedWf g p.preseed

/-- CFG of the default parameter set (Table 00-A, D28). WRITE_ONLY has no default in the spec (DESIGN CHOICE, safe, as no rule
reads it: notes/assumptions/5.md). -/
def defaultCfg : Cfg :=
  { nativeW := 128#16, nativeH := 128#16, virtW := 128#16, virtH := 128#16, xOffset := 0#16, yOffset := 0#16,
    writeOnly := false, maxXfer := none }

/-- The delays of the default parameter set: the minimums (D5). -/
def defaultDelays : Delays :=
  { rstAssert := 1, rstHold := 10, rstSettle := 120, sleepExit := 120, displayOn := 120 }

/-- The masks of the default parameter set (G2). -/
def defaultMasks : Masks := { mx := 0x40#8, my := 0x80#8, mv := 0x20#8, rgb := 0x08#8 }

/-- The command bytes of the default parameter set (G1). -/
def defaultCmd : CmdBytes :=
  { frameRateA := 0xB1#8, frameRateB := 0xB2#8, frameRateC := 0xB3#8, inversionCtrl := 0xB4#8,
    powerCtrl1 := 0xC0#8, powerCtrl2 := 0xC1#8, powerCtrl3 := 0xC2#8, powerCtrl4 := 0xC3#8, powerCtrl5 := 0xC4#8,
    vcomLevel := 0xC5#8, gammaA := 0xE0#8, gammaB := 0xE1#8, pixelFormat := 0x3A#8, orientation := 0x36#8,
    colRange := 0x2A#8, rowRange := 0x2B#8, memWrite := 0x2C#8, sleepExit := 0x11#8, displayOn := 0x29#8 }

/-- The illustrative payloads of Table 42-A (G4, G5). -/
def defaultPayload : Payloads :=
  { frameRateA := [0x01#8, 0x2C#8, 0x2D#8]
    frameRateB := [0x01#8, 0x2C#8, 0x2D#8]
    frameRateC := [0x01#8, 0x2C#8, 0x2D#8, 0x01#8, 0x2C#8, 0x2D#8]
    inversionCtrl := [0x07#8]
    powerCtrl1 := [0xA2#8, 0x02#8, 0x84#8]
    powerCtrl2 := [0xC5#8]
    powerCtrl3 := [0x0A#8, 0x00#8]
    powerCtrl4 := [0x8A#8, 0x2A#8]
    powerCtrl5 := [0x8A#8, 0xEE#8]
    vcomLevel := [0x0E#8]
    gammaA := [0x02#8, 0x1C#8, 0x07#8, 0x12#8, 0x37#8, 0x32#8, 0x29#8, 0x2D#8,
      0x29#8, 0x25#8, 0x2B#8, 0x39#8, 0x00#8, 0x01#8, 0x03#8, 0x10#8]
    gammaB := [0x03#8, 0x1D#8, 0x07#8, 0x06#8, 0x2E#8, 0x2C#8, 0x29#8, 0x2D#8,
      0x2E#8, 0x2E#8, 0x37#8, 0x3F#8, 0x00#8, 0x00#8, 0x02#8, 0x10#8]
    pixelFormat := [0x05#8] }

/-- The pre-seed window's default (Table 00-A, D8): the unrotated visible window of a geometry. -/
def defaultPreseed (g : Cfg) : Window :=
  { xs := g.xOffset, xe := g.xOffset + g.nativeW - 1#16, ys := g.yOffset, ye := g.yOffset + g.nativeH - 1#16 }

/-- The default parameter set of Table 00-A. -/
def defaultParams : Params :=
  { delays := defaultDelays, masks := defaultMasks, cmd := defaultCmd, payload := defaultPayload,
    preseed := defaultPreseed defaultCfg, rstActiveLevel := .low }

end Sys2Proof
end

