-- ==== Sys2Proof/Decode.lean ====
section
/-! DEFINITION. Encodings (spec/30_encoding.md): the byte-order helpers of R95, the operand codes of R92, the decoder
(total on any bytes, rejecting by name), and after it the encoder, written from the same tables.

The spec gives the host operations a selector and operands and no packing (R91, N2); the packing into bytes is the
model's own (DESIGN CHOICE, safe: notes/assumptions/3.md): the selector byte, then the operands in the order of R92, a `u16` high byte first.
A frame kind is its command byte (R98), then its `u16` operands in their wire order (R201, R202). -/

namespace Sys2Proof

/-- `hi8(v) = v[15:8]` (R95). -/
def hi8 (v : Half) : Byte := v.extractLsb' 8 8

/-- `lo8(v) = v[7:0]` (R95). -/
def lo8 (v : Half) : Byte := v.extractLsb' 0 8

/-- `be16(v) = [hi8(v), lo8(v)]`, "high byte first" (R95, R96). -/
def be16 (v : Half) : List Byte := [hi8 v, lo8 v]

/-- `v = hi8(v)·256 + lo8(v)` read backwards (R95). -/
def ofBe16 (h l : Byte) : Half := h ++ l

/-- A range payload: `be16(start) ++ be16(end)` (R95). -/
def rangeData (a b : Half) : List Byte := be16 a ++ be16 b

/-- The codes of `rot` (R92). -/
def rotationCode : Rotation → Byte
  | .deg0 => 0#8
  | .deg90 => 1#8
  | .deg180 => 2#8
  | .deg270 => 3#8

/-- The rotation of a code; "every code is legal" of the two bits (R92), no other value is one (U11). -/
def rotationOfCode (b : Byte) : Option Rotation :=
  if b = 0#8 then some .deg0
  else if b = 1#8 then some .deg90
  else if b = 2#8 then some .deg180
  else if b = 3#8 then some .deg270
  else none

/-- The codes of `order`: 1 = RGB, 0 = BGR (R92). -/
def orderCode : ColorOrder → Byte
  | .bgr => 0#8
  | .rgb => 1#8

/-- The colour order of a code (R92, U11). -/
def orderOfCode (b : Byte) : Option ColorOrder :=
  if b = 0#8 then some .bgr
  else if b = 1#8 then some .rgb
  else none

/-- The window operand: four `u16` in the order `xs, xe, ys, ye` (R92). -/
def decodeWindow : List Byte → Option Window
  | [a, b, c, d, e, f, g, h] => some ⟨ofBe16 a b, ofBe16 c d, ofBe16 e f, ofBe16 g h⟩
  | _ => none

/-- The operands of INITIALIZE. -/
def decodeInitialize : List Byte → Except DecodeError Instr
  | [r, o] =>
    match rotationOfCode r, orderOfCode o with
    | none, _ => .error .rotationCode
    | some _, none => .error .orderCode
    | some rot, some order => .ok (.init rot order)
  | _ => .error .wrongLength

/-- The operations of Table 30-A by selector (R91, R100), with their operand bytes. -/
def decodeHostOp : List Byte → Except DecodeError Instr
  | [] => .error .emptyDescriptor
  | sel :: ops =>
    match sel.toNat with
    | 0 => .error .reservedSelector
    | 1 => if ops = [] then .ok .hwReset else .error .wrongLength
    | 2 => decodeInitialize ops
    | 3 =>
      match decodeWindow ops with
      | some w => .ok (.flush w)
      | none => .error .wrongLength
    | 4 =>
      match decodeWindow ops with
      | some w => .ok (.setWindow w)
      | none => .error .wrongLength
    | 5 =>
      match ops with
      | [] => .error .wrongLength
      | cmd :: data => .ok (.send cmd data)
    | 6 => .error .reservedSelector
    | 7 => .error .reservedSelector
    | _ => .error .selectorOutOfRange

/-- An instruction without operands. -/
def withoutOperands (i : Instr) : List Byte → Option Instr
  | [] => some i
  | _ :: _ => none

/-- A range frame's two operands (R201, R202). -/
def withRange (i : Half → Half → Instr) : List Byte → Option Instr
  | [a, b, c, d] => some (i (ofBe16 a b) (ofBe16 c d))
  | _ => none

/-- The frame instruction of a kind and its operand bytes (Table 30-B). -/
def frameInstr : FrameKind → List Byte → Option Instr
  | .frameRateA => withoutOperands .frameRateA
  | .frameRateB => withoutOperands .frameRateB
  | .frameRateC => withoutOperands .frameRateC
  | .inversionCtrl => withoutOperands .inversionCtrl
  | .powerCtrl1 => withoutOperands .powerCtrl1
  | .powerCtrl2 => withoutOperands .powerCtrl2
  | .powerCtrl3 => withoutOperands .powerCtrl3
  | .powerCtrl4 => withoutOperands .powerCtrl4
  | .powerCtrl5 => withoutOperands .powerCtrl5
  | .vcomLevel => withoutOperands .vcomLevel
  | .gammaA => withoutOperands .gammaA
  | .gammaB => withoutOperands .gammaB
  | .pixelFormat => withoutOperands .pixelFormat
  | .orientation => withoutOperands .orientation
  | .colRange => withRange .colRange
  | .rowRange => withRange .rowRange
  | .memWrite => withoutOperands .memWrite
  | .sleepExit => withoutOperands .sleepExit
  | .displayOn => withoutOperands .displayOn

/-- A frame kind by its command byte (R98), under the command bytes in force. -/
def decodeFrame (c : CmdBytes) : List Byte → Except DecodeError Instr
  | [] => .error .emptyDescriptor
  | b :: ops =>
    match kindOfCmd c b with
    | none => .error .unknownCommand
    | some k =>
      match frameInstr k ops with
      | some i => .ok i
      | none => .error .wrongLength

/-- The decoder: total on any descriptor, rejecting by name. -/
def decode (c : CmdBytes) : Descriptor → Except DecodeError Instr
  | .host bytes => decodeHostOp bytes
  | .frame bytes => decodeFrame c bytes

/-- The window operand's bytes (R92). -/
def encodeWindow (w : Window) : List Byte := be16 w.xs ++ be16 w.xe ++ be16 w.ys ++ be16 w.ye

/-- The encoder, from Table 30-A (selectors 1 to 5) and Table 30-B (command bytes). -/
def encode (c : CmdBytes) : Instr → Descriptor
  | .hwReset => .host [1#8]
  | .init rot order => .host [2#8, rotationCode rot, orderCode order]
  | .flush w => .host (3#8 :: encodeWindow w)
  | .setWindow w => .host (4#8 :: encodeWindow w)
  | .send cmd data => .host (5#8 :: cmd :: data)
  | .frameRateA => .frame [c.frameRateA]
  | .frameRateB => .frame [c.frameRateB]
  | .frameRateC => .frame [c.frameRateC]
  | .inversionCtrl => .frame [c.inversionCtrl]
  | .powerCtrl1 => .frame [c.powerCtrl1]
  | .powerCtrl2 => .frame [c.powerCtrl2]
  | .powerCtrl3 => .frame [c.powerCtrl3]
  | .powerCtrl4 => .frame [c.powerCtrl4]
  | .powerCtrl5 => .frame [c.powerCtrl5]
  | .vcomLevel => .frame [c.vcomLevel]
  | .gammaA => .frame [c.gammaA]
  | .gammaB => .frame [c.gammaB]
  | .pixelFormat => .frame [c.pixelFormat]
  | .orientation => .frame [c.orientation]
  | .colRange xs xe => .frame (c.colRange :: rangeData xs xe)
  | .rowRange ys ye => .frame (c.rowRange :: rangeData ys ye)
  | .memWrite => .frame [c.memWrite]
  | .sleepExit => .frame [c.sleepExit]
  | .displayOn => .frame [c.displayOn]

/-- One row of spec/opcode_table.json: the level, the mask and the value of the row's first byte. -/
structure TableRow where
  hostLevel : Bool
  mask : Byte
  value : Byte
  deriving DecidableEq, Repr

/-- spec/opcode_table.json: the row of each instruction ("match" and "mask"), for the default command bytes. -/
def tableRow : Instr → TableRow
  | .hwReset => ⟨true, 0x07#8, 0x01#8⟩
  | .init _ _ => ⟨true, 0x07#8, 0x02#8⟩
  | .flush _ => ⟨true, 0x07#8, 0x03#8⟩
  | .setWindow _ => ⟨true, 0x07#8, 0x04#8⟩
  | .send _ _ => ⟨true, 0x07#8, 0x05#8⟩
  | .frameRateA => ⟨false, 0xFF#8, 0xB1#8⟩
  | .frameRateB => ⟨false, 0xFF#8, 0xB2#8⟩
  | .frameRateC => ⟨false, 0xFF#8, 0xB3#8⟩
  | .inversionCtrl => ⟨false, 0xFF#8, 0xB4#8⟩
  | .powerCtrl1 => ⟨false, 0xFF#8, 0xC0#8⟩
  | .powerCtrl2 => ⟨false, 0xFF#8, 0xC1#8⟩
  | .powerCtrl3 => ⟨false, 0xFF#8, 0xC2#8⟩
  | .powerCtrl4 => ⟨false, 0xFF#8, 0xC3#8⟩
  | .powerCtrl5 => ⟨false, 0xFF#8, 0xC4#8⟩
  | .vcomLevel => ⟨false, 0xFF#8, 0xC5#8⟩
  | .gammaA => ⟨false, 0xFF#8, 0xE0#8⟩
  | .gammaB => ⟨false, 0xFF#8, 0xE1#8⟩
  | .pixelFormat => ⟨false, 0xFF#8, 0x3A#8⟩
  | .orientation => ⟨false, 0xFF#8, 0x36#8⟩
  | .colRange _ _ => ⟨false, 0xFF#8, 0x2A#8⟩
  | .rowRange _ _ => ⟨false, 0xFF#8, 0x2B#8⟩
  | .memWrite => ⟨false, 0xFF#8, 0x2C#8⟩
  | .sleepExit => ⟨false, 0xFF#8, 0x11#8⟩
  | .displayOn => ⟨false, 0xFF#8, 0x29#8⟩

/-- Whether a descriptor's first byte is the one a row fixes, at the row's level. -/
def TableRow.fits (r : TableRow) : Descriptor → Bool
  | .host (b :: _) => r.hostLevel && (b &&& r.mask == r.value)
  | .frame (b :: _) => !r.hostLevel && (b &&& r.mask == r.value)
  | _ => false

/-- The bytes of a table word: byte `i` is bits `8i+7 .. 8i`, the first byte first. -/
def wordBytes (n w : Nat) : List Byte :=
  (List.range n).map fun i => BitVec.ofNat 8 (w / 256 ^ i)

/-- How many operand bytes follow the first byte of a descriptor, SEND's data taken as empty. -/
def operandBytes (hostLevel : Bool) (b : Byte) (c : CmdBytes) : Nat :=
  if hostLevel then
    match b.toNat with
    | 2 => 2
    | 3 => 8
    | 4 => 8
    | 5 => 1
    | _ => 0
  else
    match kindOfCmd c b with
    | some .colRange => 4
    | some .rowRange => 4
    | _ => 0

/-- The descriptor a table word stands for. The table lists two levels (R90): its HOSTOP rows give a 3-bit selector,
so a first byte below 8 is a selector, and every other first byte a command byte. The descriptor is as long as its first
byte says, at least `nbits` bits; the bits the table gives no row are 0. -/
def descriptorOfWord (c : CmdBytes) (nbits w : Nat) : Descriptor :=
  let first : Byte := BitVec.ofNat 8 w
  let hostLevel := decide (first.toNat < 8)
  let bytes := wordBytes (max ((nbits + 7) / 8) (1 + operandBytes hostLevel first c)) w
  if hostLevel then .host bytes else .frame bytes

/-- What the decoder reads from a table word, under the default command bytes. -/
def decodeTableWord (nbits w : Nat) : Option Instr :=
  match decode defaultCmd (descriptorOfWord defaultCmd nbits w) with
  | .ok i => some i
  | .error _ => none

end Sys2Proof
end

