-- ==== Sys2Proof/Machine/Operands.lean ====
section
/-! DEFINITION. Operand computations: the orientation byte (spec/42_initializer.md R156, R157), the axis extents, the
window geometry and the FrameBuffer index (spec/20_memory.md R62, R63, R69, R73), and INIT_TABLE (R158). -/

namespace Sys2Proof

/-- `rotation_bits` (R156, Table 42-B). -/
def rotationBits (m : Masks) : Rotation → Byte
  | .deg0 => m.mx ||| m.my
  | .deg90 => m.mx ||| m.mv
  | .deg180 => 0#8
  | .deg270 => m.my ||| m.mv

/-- The colour-order flag: BIT_RGB for RGB, 0 for BGR (R157). -/
def orderBits (m : Masks) : ColorOrder → Byte
  | .bgr => 0#8
  | .rgb => m.rgb

/-- `orientation_byte(rot, order)` (R157). -/
def orientationByte (m : Masks) (rot : Rotation) (order : ColorOrder) : Byte :=
  rotationBits m rot ||| orderBits m order

/-- Whether the axis-swap flag MV is set under a rotation (Table 42-B). -/
def axesSwapped : Rotation → Bool
  | .deg0 => false
  | .deg90 => true
  | .deg180 => false
  | .deg270 => true

/-- COL_EXTENT (R63). -/
def colExtent (g : Cfg) (rot : Rotation) : Nat :=
  if axesSwapped rot then g.virtH.toNat else g.virtW.toNat

/-- ROW_EXTENT (R63). -/
def rowExtent (g : Cfg) (rot : Rotation) : Nat :=
  if axesSwapped rot then g.virtW.toNat else g.virtH.toNat

/-- One axis of R69: `start ≤ end < extent`. -/
def axisWf (a b : Half) (extent : Nat) : Bool :=
  decide (a ≤ b) && decide (b.toNat < extent)

/-- Window well-formedness (R69). -/
def windowWf (g : Cfg) (rot : Rotation) (w : Window) : Bool :=
  axisWf w.xs w.xe (colExtent g rot) && axisWf w.ys w.ye (rowExtent g rot)

/-- `w = xe − xs + 1` (R69). -/
def windowWidth (w : Window) : Nat := w.xe.toNat - w.xs.toNat + 1

/-- `h = ye − ys + 1` (R69). -/
def windowHeight (w : Window) : Nat := w.ye.toNat - w.ys.toNat + 1

/-- FB addressing: the pixel index of column `c`, row `r` (R62). -/
def pixelAddress (g : Cfg) (rot : Rotation) (c r : Nat) : Nat := r * colExtent g rot + c

/-- The pixel indices a FLUSH reads, in its order (R216, R217): rows `ys` to `ye`, in each row columns `xs` to `xe`. -/
def windowAddresses (g : Cfg) (rot : Rotation) (w : Window) : List Nat :=
  (List.range (windowHeight w)).flatMap fun r =>
    (List.range (windowWidth w)).map fun c => pixelAddress g rot (w.xs.toNat + c) (w.ys.toNat + r)

/-- The number of pixels the FrameBuffer has (R61). -/
def frameBufferPixels (g : Cfg) (rot : Rotation) : Nat := colExtent g rot * rowExtent g rot

/-- VIS, the visible window (R73). -/
def visibleWindow (g : Cfg) (rot : Rotation) : Window :=
  if axesSwapped rot then
    { xs := g.yOffset, xe := g.yOffset + g.nativeH - 1#16, ys := g.xOffset, ye := g.xOffset + g.nativeW - 1#16 }
  else
    { xs := g.xOffset, xe := g.xOffset + g.nativeW - 1#16, ys := g.yOffset, ye := g.yOffset + g.nativeH - 1#16 }

/-- The greedy chunks of a byte string (R218): all of `m` bytes but the last, which has what is left. The first argument
bounds the number of chunks. -/
def chunksUpTo : Nat → Nat → List Byte → List (List Byte)
  | 0, _, _ => []
  | n + 1, m, bs =>
    match bs with
    | [] => []
    | b :: rest => (b :: rest).take m :: chunksUpTo n m ((b :: rest).drop m)

/-- PIXEL_STREAM's transfers (R218): one transfer when the transport has no limit, else chunks of MAX_XFER bytes. -/
def chunks (limit : Option Nat) (bs : List Byte) : List (List Byte) :=
  match limit with
  | none => chunksUpTo bs.length bs.length bs
  | some m => chunksUpTo bs.length m bs

/-- A slot of INIT_TABLE (30_encoding.md R99): `(kind, data, delay)`, delay 0 meaning no `Sleep` call. -/
structure Slot where
  kind : FrameKind
  data : List Byte
  delay : Nat
  deriving DecidableEq, Repr

/-- The kinds of the 18 slots, slot 0 first (R158, Table 42-A). -/
def slotKinds : List FrameKind :=
  [.frameRateA, .frameRateB, .frameRateC, .inversionCtrl, .powerCtrl1, .powerCtrl2, .powerCtrl3, .powerCtrl4,
   .powerCtrl5, .vcomLevel, .gammaA, .gammaB, .pixelFormat, .orientation, .colRange, .rowRange, .sleepExit,
   .displayOn]

/-- The "data" column of Table 42-A. -/
def slotData (p : Params) (rot : Rotation) (order : ColorOrder) : FrameKind → List Byte
  | .frameRateA => p.payload.frameRateA
  | .frameRateB => p.payload.frameRateB
  | .frameRateC => p.payload.frameRateC
  | .inversionCtrl => p.payload.inversionCtrl
  | .powerCtrl1 => p.payload.powerCtrl1
  | .powerCtrl2 => p.payload.powerCtrl2
  | .powerCtrl3 => p.payload.powerCtrl3
  | .powerCtrl4 => p.payload.powerCtrl4
  | .powerCtrl5 => p.payload.powerCtrl5
  | .vcomLevel => p.payload.vcomLevel
  | .gammaA => p.payload.gammaA
  | .gammaB => p.payload.gammaB
  | .pixelFormat => p.payload.pixelFormat
  | .orientation => [orientationByte p.masks rot order]
  | .colRange => rangeData p.preseed.xs p.preseed.xe
  | .rowRange => rangeData p.preseed.ys p.preseed.ye
  | .memWrite => []
  | .sleepExit => []
  | .displayOn => []

/-- The "post-delay" column of Table 42-A (R177): slots 16 and 17 only. -/
def slotDelay (p : Params) : FrameKind → Nat
  | .frameRateA | .frameRateB | .frameRateC | .inversionCtrl => 0
  | .powerCtrl1 | .powerCtrl2 | .powerCtrl3 | .powerCtrl4 | .powerCtrl5 => 0
  | .vcomLevel | .gammaA | .gammaB | .pixelFormat | .orientation => 0
  | .colRange | .rowRange | .memWrite => 0
  | .sleepExit => p.delays.sleepExit
  | .displayOn => p.delays.displayOn

/-- The slot of a kind. -/
def slotOf (p : Params) (rot : Rotation) (order : ColorOrder) (k : FrameKind) : Slot :=
  { kind := k, data := slotData p rot order k, delay := slotDelay p k }

/-- INIT_TABLE (R158): the 18 slots of Table 42-A in their order. -/
def initTable (p : Params) (rot : Rotation) (order : ColorOrder) : List Slot :=
  slotKinds.map (slotOf p rot order)

end Sys2Proof
end

