-- ==== Sys2Proof/WellFormed.lean ====
section
/-! DEFINITION. Well-formed instructions (spec/20_memory.md R69, spec/30_encoding.md R101).

Every code of `rot` and `order` is legal and every `cmd` and `data` of SEND is; what can be ill-formed is a window, or
one axis of it in a range frame. The checks themselves stand in Machine/Operands.lean (`windowWf`, `axisWf`) and, for the
parameters, in Machine/Parameters.lean (`parametersWf`). -/

namespace Sys2Proof

/-- Well-formedness of an instruction's operands under a geometry and a rotation. -/
def Instr.wf (g : Cfg) (rot : Rotation) : Instr → Bool
  | .flush w => windowWf g rot w
  | .setWindow w => windowWf g rot w
  | .colRange xs xe => axisWf xs xe (colExtent g rot)
  | .rowRange ys ye => axisWf ys ye (rowExtent g rot)
  | .hwReset | .init _ _ | .send _ _ => true
  | .frameRateA | .frameRateB | .frameRateC | .inversionCtrl => true
  | .powerCtrl1 | .powerCtrl2 | .powerCtrl3 | .powerCtrl4 | .powerCtrl5 => true
  | .vcomLevel | .gammaA | .gammaB | .pixelFormat | .orientation => true
  | .memWrite | .sleepExit | .displayOn => true

end Sys2Proof
end

