-- ==== Sys2Proof/Machine/State.lean ====
section
/-! DEFINITION. The state of one PanelHandle (spec/10_state.md R20, Table 10-C), of the host's FrameBuffer
(spec/20_memory.md R61) and of the model's inputs (what the environment answers, what the host asks), as plain data;
the reasons a step can stop; block reset (spec/70_reset_and_hazards.md R280). -/

namespace Sys2Proof.Machine

open Sys2Proof

/-- The reset line's logical level (10_state.md R30): DEASSERT = 0, ASSERT = 1. -/
inductive ResetLevel where
  | deassert | assert
  deriving DecidableEq, Repr

/-- LIFE (10_state.md R31): codes 0 to 3 in this order (`lifeCode`). -/
inductive Life where
  | unreset | resetDone | ready | failed
  deriving DecidableEq, Repr

/-- The four causes a SequenceError records (60_exceptions.md Table 60-A). -/
inductive SequenceCause where
  | gpioRst | gpioDc | delay | order
  deriving DecidableEq, Repr

/-- ERR (10_state.md R32) and the result of a host operation (00_scope.md R18): the rows of Table 60-A. -/
inductive Result where
  | ok
  | busError (k : Nat)
  | sequenceError (cause : SequenceCause)
  deriving DecidableEq, Repr

/-- A trace event (00_scope.md R14, R16). -/
inductive Event where
  | gpioRst (l : ResetLevel)
  | gpioDc (l : Level)
  | busXfer (dc : Level) (bs : List Byte)
  | sleep (ms : Nat)
  deriving DecidableEq, Repr

/-- A primitive call in TRACE with its answer (92_eei_decisions.md D19; a failing call is the `!` of R105;
DEDUCED, safe: notes/assumptions/15.md). -/
structure Entry where
  event : Event
  ok : Bool
  deriving DecidableEq, Repr

/-- What the environment answers to a primitive call (00_scope.md R14, R17; DESIGN CHOICE, unsafe for a used-up list: notes/assumptions/1.md). -/
inductive Answer where
  /-- `ok`; a `Sleep(n)` then took `n + extra` ms, so `d ≥ n` whatever `extra` is. -/
  | ok (extra : Nat)
  /-- `fail`. -/
  | fail
  /-- No answer ever comes (93_implementation_defined.md U13). -/
  | hang
  deriving DecidableEq, Repr

/-- What the host does next (00_scope.md R9; DESIGN CHOICE, safe: notes/assumptions/2.md, 6.md, 13.md). -/
inductive Request where
  /-- Issue a host operation (30_encoding.md R91), as a descriptor's bytes. -/
  | hostOp (bytes : List Byte)
  /-- Not the host's: the next frame of the operation in progress, as a descriptor's bytes (42_initializer.md R183). -/
  | frame (bytes : List Byte)
  /-- Write one FrameBuffer pixel between operations (20_memory.md R77). -/
  | setPixel (addr : Nat) (value : Half)
  /-- Bind a FrameBuffer of `pixels` pixels (20_memory.md R61, 70_reset_and_hazards.md R282). -/
  | bindFrameBuffer (pixels : Nat)
  /-- Create the PanelHandle: block reset (70_reset_and_hazards.md R280). -/
  | attach (cfg : Cfg) (par : Params)
  /-- Destroy the PanelHandle (70_reset_and_hazards.md R293). -/
  | detach
  deriving DecidableEq, Repr

/-- FB space (20_memory.md R61): (pixel index, pixel) pairs in one canonical form (`Memory.wf` in Ops.lean). Pixels are
the spec's smallest addressable unit: "FB space is an array of 16-bit *values*, not bytes" (D23). -/
abbrev Memory := List (Nat × Half)

/-- The state. Each field names the rule that gives it. -/
@[ext]
structure State where
  /-- CFG, R21. -/
  cfg : Cfg
  /-- The parameters that are not CFG (R39, Table 00-A); no operation writes them. -/
  par : Params
  /-- ROT, R22. -/
  rot : Rotation
  /-- CORD, R23. -/
  cord : ColorOrder
  /-- WIN, R24. -/
  win : Window
  /-- WIN_VALID, R25. -/
  winValid : Bool
  /-- STEP, R26: 5 bits. -/
  step : BitVec 5
  /-- PIX, R27. -/
  pix : Nat
  /-- TXBUF, R28. -/
  txbuf : List Byte
  /-- XFERS, R34. -/
  xfers : Nat
  /-- DC, R29. -/
  dc : Level
  /-- RST, R30. -/
  rst : ResetLevel
  /-- LIFE, R31. -/
  life : Life
  /-- ERR, R32. -/
  err : Result
  /-- BUSY, R33. -/
  busy : Bool
  /-- NOW, R35. -/
  now : Nat
  /-- TRACE, R36, oldest call first. -/
  trace : List Entry
  /-- FB space, the host's (R61). -/
  fb : Memory
  /-- The number of pixels of the host's FrameBuffer (R61, R292). -/
  fbPixels : Nat
  /-- Whether the PanelHandle exists (R20, R293). -/
  attached : Bool
  /-- The model's own: the answers the environment will give to the next primitive calls (DESIGN CHOICE, unsafe for a used-up list: notes/assumptions/1.md). -/
  env : List Answer
  /-- The model's own: what the host will ask for, next first (DESIGN CHOICE, safe: notes/assumptions/2.md). -/
  requests : List Request
  deriving DecidableEq, Repr

/-- Why the machine stops with a fault. -/
inductive Fault where
  /-- A primitive call is never answered, so the operation never returns (R17, U13: "stuck"; DEDUCED:
  notes/assumptions/10.md). Raised by every operation
  and frame that makes a primitive call, when the environment's answer is `hang`. Safe: no state follows. -/
  | environmentHangs
  deriving DecidableEq, Repr

/-- Why the model gives a situation no meaning. Each is the spec's own "refused". All are safe: no state follows. -/
inductive Refusal where
  /-- Raised by an arm of `exec` whose instruction has no meaning yet. -/
  | notModelled (mnemonic : String)
  /-- No PanelHandle exists (R293). Raised by every operation and frame. -/
  | noPanelHandle
  /-- The parameters violate a constraint (R10, R284). Raised by every operation and frame, and by attach. -/
  | illFormedParameters
  /-- A host operation, attach, detach or FrameBuffer write while BUSY = 1 (R289, R293, R77). -/
  | busy
  /-- The window operand is not well-formed (R69). Raised by FLUSH, SET_WINDOW, COL_RANGE and ROW_RANGE. -/
  | illFormedWindow
  /-- An admitted FLUSH with a FrameBuffer of another size than R61 says (R292, D21, U12). Raised by FLUSH. -/
  | frameBufferSize
  /-- A frame kind outside the operation that runs it (R183: "A slot is not issuable alone"). Raised by the frames. -/
  | frameNotIssuableAlone
  /-- A descriptor that names no operation or frame (R100, R101). Raised by `step`. -/
  | illegalDescriptor (why : DecodeError)
  /-- The host writes a pixel that the FrameBuffer does not have (R61). Raised by `step`. -/
  | noSuchPixel
  deriving DecidableEq, Repr

/-- What a step or a meaning answers. -/
abbrev Out := Host.Outcome State Fault Refusal

/-- Block reset (R280, R40, Table 10-C): every register at its reset value, the parameters as given, no primitive call.
ROT, CORD, WIN, DC and RST are "unspecified"; their values here are the model's (DESIGN CHOICE, unsafe: notes/assumptions/4.md). The
FrameBuffer has the virtual extent's pixels (R61) and no pixel written. -/
def State.blockReset (cfg : Cfg) (par : Params) : State :=
  { cfg := cfg
    par := par
    rot := .deg0
    cord := .bgr
    win := { xs := 0#16, xe := 0#16, ys := 0#16, ye := 0#16 }
    winValid := false
    step := 0#5
    pix := 0
    txbuf := []
    xfers := 0
    dc := .low
    rst := .deassert
    life := .unreset
    err := .ok
    busy := false
    now := 0
    trace := []
    fb := []
    fbPixels := cfg.virtW.toNat * cfg.virtH.toNat
    attached := true
    env := []
    requests := [] }

/-- The machine right after block reset, with the default parameters of Table 00-A (PRESUMED, unsafe: notes/assumptions/5.md). -/
def State.reset : State := State.blockReset defaultCfg defaultParams

end Sys2Proof.Machine
end

