-- ==== Sys2Proof/Machine/Flags.lean ====
section
/-! DEFINITION. The flags (spec/10_state.md Table 10-B): their codes, the admission table and what becomes of LIFE
(spec/60_exceptions.md Table 60-C, R250, R252), and the abort's effect on LIFE (Table 60-B). -/

namespace Sys2Proof.Machine

open Sys2Proof

/-- The codes of LIFE (R31), 2 bits. -/
def lifeCode : Life → BitVec 2
  | .unreset => 0#2
  | .resetDone => 1#2
  | .ready => 2#2
  | .failed => 3#2

/-- The codes of ERR (R32, Table 60-A), 2 bits. -/
def resultCode : Result → BitVec 2
  | .ok => 0#2
  | .busError _ => 1#2
  | .sequenceError _ => 2#2

/-- The codes of a SequenceError's cause (Table 60-A). -/
def causeCode : SequenceCause → Nat
  | .gpioRst => 1
  | .gpioDc => 2
  | .delay => 3
  | .order => 4

/-- The information field of ERR (Table 60-A): `k` of a BusError, the cause's code of a SequenceError, none of Ok. -/
def resultInfo : Result → Option Nat
  | .ok => none
  | .busError k => some k
  | .sequenceError c => some (causeCode c)

/-- The codes of DC (R29) and of a logical level: LOW = 0, HIGH = 1. -/
def levelBit : Level → Bool
  | .low => false
  | .high => true

/-- The codes of RST (R30): DEASSERT = 0, ASSERT = 1. -/
def resetLevelBit : ResetLevel → Bool
  | .deassert => false
  | .assert => true

/-- The codes of ROT (R22), 2 bits. -/
def rotBits : Rotation → BitVec 2
  | .deg0 => 0#2
  | .deg90 => 1#2
  | .deg180 => 2#2
  | .deg270 => 3#2

/-- The codes of CORD (R23): 1 = RGB, 0 = BGR. -/
def cordBit : ColorOrder → Bool
  | .bgr => false
  | .rgb => true

/-- Admission (Table 60-C, R250): which operation is admitted in which LIFE. -/
def admitted : HostOp → Life → Bool
  | .hwReset, _ => true
  | .init, .resetDone => true
  | .init, _ => false
  | .flush, .ready => true
  | .flush, _ => false
  | .setWindow, .ready => true
  | .setWindow, _ => false
  | .send, .resetDone => true
  | .send, .ready => true
  | .send, _ => false

/-- LIFE after an operation that returned Ok (Table 60-C). -/
def lifeOnOk : HostOp → Life → Life
  | .hwReset, _ => .resetDone
  | .init, _ => .ready
  | .flush, l => l
  | .setWindow, l => l
  | .send, l => l

/-- LIFE after an operation that aborted (Table 60-B, Table 60-C). -/
def lifeOnAbort : HostOp → Life → Life
  | .hwReset, _ => .unreset
  | .init, _ => .failed
  | .flush, l => l
  | .setWindow, l => l
  | .send, l => l

end Sys2Proof.Machine
end

