-- ==== Sys2Proof/Machine/Ops.lean ====
section
/-! DEFINITION. The shared operations: FB space, the four primitive calls (spec/00_scope.md R14), straight-line
programs of micro-actions, the framer's phases (spec/40_bus_transport.md R120 to R122), the entry and the return of a
host operation, its rejection (spec/60_exceptions.md R250) and its abort (R244, R245), which is this hardware's "taking
an exception"; there is no return from one (R247: "There is no return instruction"). -/

namespace Sys2Proof.Machine

open Sys2Proof

/-! ### FB space -/

/-- What a pixel that nothing has written reads as (DESIGN CHOICE, unsafe: notes/assumptions/8.md). -/
def blankPixel : Half := 0#16

/-- `FB[a]` (20_memory.md R62). -/
def readPixel : Memory → Nat → Half
  | [], _ => blankPixel
  | (b, v) :: rest, a => if b = a then v else readPixel rest a

/-- The cells with index `a` removed. -/
def erasePixel (m : Memory) (a : Nat) : Memory := m.filter fun c => c.1 != a

/-- A cell put at its place among cells of rising index. -/
def insertPixel : Memory → Nat → Half → Memory
  | [], a, v => [(a, v)]
  | (b, w) :: rest, a, v => if a < b then (a, v) :: (b, w) :: rest else (b, w) :: insertPixel rest a v

/-- The host's write of one pixel, in canonical form: no cell holds what an unlisted pixel reads as. The block itself
never writes FB space (20_memory.md R64). -/
def writePixel (m : Memory) (a : Nat) (v : Half) : Memory :=
  if v = blankPixel then erasePixel m a else insertPixel (erasePixel m a) a v

/-- The canonical form: indices strictly rising, every listed pixel different from a blank one. -/
def Memory.wf : Memory → Bool
  | [] => true
  | [c] => c.2 != blankPixel
  | c :: d :: rest => c.2 != blankPixel && decide (c.1 < d.1) && Memory.wf (d :: rest)

/-! ### Register updates

One named update for each register an action writes; their field lemmas stand in Laws/State.lean. -/

/-- RST <- l. -/
def State.setRst (s : State) (l : ResetLevel) : State := { s with rst := l }

/-- DC <- l. -/
def State.setDc (s : State) (l : Level) : State := { s with dc := l }

/-- XFERS <- XFERS + 1. -/
def State.countXfer (s : State) : State := { s with xfers := s.xfers + 1 }

/-- NOW <- NOW + d. -/
def State.advance (s : State) (d : Nat) : State := { s with now := s.now + d }

/-- WIN.XS <- xs; WIN.XE <- xe. -/
def State.setCols (s : State) (xs xe : Half) : State := { s with win := { s.win with xs := xs, xe := xe } }

/-- WIN.YS <- ys; WIN.YE <- ye. -/
def State.setRows (s : State) (ys ye : Half) : State := { s with win := { s.win with ys := ys, ye := ye } }

/-- WIN_VALID <- b. -/
def State.setWinValid (s : State) (b : Bool) : State := { s with winValid := b }

/-- STEP <- STEP + 1. -/
def State.nextStep (s : State) : State := { s with step := s.step + 1#5 }

/-- LIFE <- l. -/
def State.setLife (s : State) (l : Life) : State := { s with life := l }

/-- ROT <- rot; CORD <- order; STEP <- 0. -/
def State.latch (s : State) (rot : Rotation) (order : ColorOrder) : State :=
  { s with rot := rot, cord := order, step := 0#5 }

/-- PIX <- 0; TXBUF <- []. -/
def State.clearPixels (s : State) : State := { s with pix := 0, txbuf := [] }

/-- TXBUF <- []. -/
def State.clearTx (s : State) : State := { s with txbuf := [] }

/-- One pixel of SERIALIZE (R217): TXBUF <- TXBUF ++ be16(p); PIX <- PIX + 1. -/
def State.pushPixel (s : State) (p : Half) : State := { s with txbuf := s.txbuf ++ be16 p, pix := s.pix + 1 }

/-- A primitive call's event goes into TRACE with its answer, and the answer is used up. -/
def State.record (s : State) (e : Event) (ok : Bool) : State :=
  { s with trace := s.trace ++ [{ event := e, ok := ok }], env := s.env.drop 1 }

/-- The common entry of an admitted operation: BUSY <- 1; XFERS <- 0 (R33, R34). -/
def State.enter (s : State) : State := { s with busy := true, xfers := 0 }

/-- The common return: BUSY <- 0; ERR <- r (R32, R33). -/
def State.finish (s : State) (r : Result) : State := { s with busy := false, err := r }

/-- ERR <- r and nothing else. -/
def State.setErr (s : State) (r : Result) : State := { s with err := r }

/-! ### Primitive calls -/

/-- How a sequence of calls ends: it runs through, it raises an error (00_scope.md R15), or a call is never answered. The
state of `raised` is the one after the failing call. -/
inductive Progress where
  | through (s : State)
  | raised (e : Result) (s : State)
  | hung
  deriving DecidableEq, Repr

/-- Going on after a sequence ran through. -/
def Progress.andThen (p : Progress) (f : State → Progress) : Progress :=
  match p with
  | .through s => f s
  | .raised e s => .raised e s
  | .hung => .hung

/-- The environment's answer to the next call: the head of `env`; when `env` is used up, `ok` with no overshoot
(DESIGN CHOICE, unsafe for a used-up list: notes/assumptions/1.md). -/
def nextAnswer (s : State) : Answer := s.env.headD (.ok 0)

/-- A primitive call (R14): its event is appended to TRACE, then the answer decides. -/
def primitive (e : Event) (onOk : Nat → State → State) (onFail : Result) (s : State) : Progress :=
  match nextAnswer s with
  | .ok extra => .through (onOk extra (s.record e true))
  | .fail => .raised onFail (s.record e false)
  | .hang => .hung

/-- `Rst(l)` (R14). -/
def callRst (l : ResetLevel) (s : State) : Progress :=
  primitive (.gpioRst l) (fun _ t => t.setRst l) (.sequenceError .gpioRst) s

/-- `Dc(l)` (R14). -/
def callDc (l : Level) (s : State) : Progress :=
  primitive (.gpioDc l) (fun _ t => t.setDc l) (.sequenceError .gpioDc) s

/-- `Xfer(bs)` (R14): the event carries the DC register; a failure raises BusError(XFERS). -/
def callXfer (bs : List Byte) (s : State) : Progress :=
  primitive (.busXfer s.dc bs) (fun _ t => t.countXfer) (.busError s.xfers) s

/-- `Sleep(n)` (R14): `ok` advances NOW by `d ≥ n`. -/
def callSleep (n : Nat) (s : State) : Progress :=
  primitive (.sleep n) (fun extra t => t.advance (n + extra)) (.sequenceError .delay) s

/-! ### Straight-line programs -/

/-- The micro-actions the pseudocode of the operations is made of. -/
inductive Action where
  | rst (l : ResetLevel)
  | dc (l : Level)
  | xfer (bs : List Byte)
  | sleep (ms : Nat)
  | setCols (xs xe : Half)
  | setRows (ys ye : Half)
  | setWinValid (b : Bool)
  | nextStep
  | pushPixel (addr : Nat)
  deriving DecidableEq, Repr

/-- One micro-action. -/
def act : Action → State → Progress
  | .rst l, s => callRst l s
  | .dc l, s => callDc l s
  | .xfer bs, s => callXfer bs s
  | .sleep ms, s => callSleep ms s
  | .setCols xs xe, s => .through (s.setCols xs xe)
  | .setRows ys ye, s => .through (s.setRows ys ye)
  | .setWinValid b, s => .through (s.setWinValid b)
  | .nextStep, s => .through s.nextStep
  | .pushPixel a, s => .through (s.pushPixel (readPixel s.fb a))

/-- Actions in their order; the first failing call ends the sequence (R15, R75). -/
def runActions : List Action → State → Progress
  | [], s => .through s
  | a :: rest, s => (act a s).andThen (runActions rest)

/-- CMD_PHASE (R121). -/
def cmdPhase (cmd : Byte) : List Action := [.dc .low, .xfer [cmd]]

/-- DATA_PHASE (R122). -/
def dataPhase (bs : List Byte) : List Action := [.dc .high, .xfer bs]

/-- The pseudocode of SEND (R120): the data phase only if there is data (R127). -/
def sendActions (cmd : Byte) (data : List Byte) : List Action :=
  cmdPhase cmd ++ (if data = [] then [] else dataPhase data)

/-- A `Sleep` call unless the delay is 0 (R99, R155). -/
def delayActions (ms : Nat) : List Action := if ms = 0 then [] else [.sleep ms]

/-! ### Entry, return, rejection, abort -/

/-- Rejection (R250): "changes no register but ERR", the result is SequenceError(ORDER). -/
def reject (s : State) : Out := .next (s.setErr (.sequenceError .order))

/-- Abort (R244, R245, Table 60-B): LIFE as the table says, WIN_VALID <- 0, TXBUF emptied by FLUSH, BUSY <- 0,
ERR <- the error. Nothing is saved and nothing is vectored (DEDUCED, safe: notes/assumptions/16.md). -/
def takeAbort (op : HostOp) (e : Result) (s : State) : State :=
  (((if op = .flush then s.clearTx else s).setLife (lifeOnAbort op s.life)).setWinValid false).finish e

/-- The normal return: LIFE as Table 60-C says, TXBUF emptied by FLUSH, BUSY <- 0, ERR <- Ok. -/
def returnOk (op : HostOp) (s : State) : State :=
  ((if op = .flush then s.clearTx else s).setLife (lifeOnOk op s.life)).finish .ok

/-- The end of a host operation. -/
def conclude (op : HostOp) : Progress → Out
  | .through s => .next (returnOk op s)
  | .raised e s => .next (takeAbort op e s)
  | .hung => .fault .environmentHangs

/-- What gives any operation or frame of the block no meaning: no handle (R293) or ill-formed parameters (R284). -/
def noMeaning (s : State) : Option Refusal :=
  if !s.attached then some .noPanelHandle
  else if !parametersWf s.cfg s.par then some .illFormedParameters
  else none

/-- The window check of an operation (R69, R243). In READY it is under the latched ROT (R63). Elsewhere ROT is unspecified or
stale and "no rule reads" it (10_state.md R22, R40; 41_reset_sequencer.md R146; 42_initializer.md R178), so only a window
that no rotation makes well-formed is ill-formed there (DEDUCED, unsafe in one case: notes/assumptions/7.md). -/
def windowOk (s : State) (w : Window) : Bool :=
  if s.life = .ready then windowWf s.cfg s.rot w else windowWf s.cfg .deg0 w || windowWf s.cfg .deg90 w

/-- Issuing a host operation: the premises of a meaning (R284, R289), operand well-formedness and then admission
(R243), `premise` (what an admitted operation still takes for granted, none but FLUSH's R292), and the body from the
common entry. The order of these tests: DEDUCED, safe: notes/assumptions/12.md. -/
def issue (op : HostOp) (operandsOk : Bool) (premise : Option Refusal) (body : State → Progress) (s : State) : Out :=
  match noMeaning s with
  | some r => .refused r
  | none =>
    if s.busy then .refused .busy
    else if !operandsOk then .refused .illFormedWindow
    else if !admitted op s.life then reject s
    else
      match premise with
      | some r => .refused r
      | none => conclude op (body s.enter)

/-- Running one frame of the operation in progress (R183): it needs the operation (BUSY = 1) at this frame; a failing call
aborts that operation (DEDUCED, safe: notes/assumptions/6.md). -/
def runFrame (op : HostOp) (inPlace operandsOk : Bool) (body : List Action) (s : State) : Out :=
  match noMeaning s with
  | some r => .refused r
  | none =>
    if !(s.busy && inPlace) then .refused .frameNotIssuableAlone
    else if !operandsOk then .refused .illFormedWindow
    else
      match runActions body s with
      | .through t => .next t
      | .raised e t => .next (takeAbort op e t)
      | .hung => .fault .environmentHangs

end Sys2Proof.Machine
end

