-- ==== Sys2Proof/Machine/Initializer.lean ====
section
/-! DEFINITION. The Controller Initializer (spec/42_initializer.md): INITIALIZE, and the frame kinds that only
INIT_TABLE holds. Each of those runs as the slot of the INITIALIZE in progress at STEP equal to its number (R183). -/

namespace Sys2Proof.Machine

open Sys2Proof

/-- What the loop of R155 does to WIN and WIN_VALID after a slot's frame (R173, R174): slots 14 and 15 only. -/
def mirrorActions (p : Params) : FrameKind → List Action
  | .colRange => [.setCols p.preseed.xs p.preseed.xe]
  | .rowRange => [.setRows p.preseed.ys p.preseed.ye, .setWinValid true]
  | _ => []

/-- One turn of the loop of R155: the slot's frame, the mirror, the post-delay, STEP <- STEP + 1. -/
def slotActions (p : Params) (sl : Slot) : List Action :=
  sendActions (cmdOf p.cmd sl.kind) sl.data ++ mirrorActions p sl.kind ++ delayActions sl.delay ++ [.nextStep]

/-- The slot at STEP, none when STEP = 18 ("all slots sent", R26). -/
def currentSlot (s : State) : Option Slot := (initTable s.par s.rot s.cord)[s.step.toNat]?

/-- `while STEP < 18` (R155, R181), the first argument bounding the number of turns. -/
def initLoop : Nat → State → Progress
  | 0, s => .through s
  | n + 1, s =>
    match currentSlot s with
    | none => .through s
    | some sl => (runActions (slotActions s.par sl) s).andThen (initLoop n)

/-- INITIALIZE's registers on entry (R155, R180): ROT, CORD <- the operands, WIN_VALID <- 0, STEP <- 0. -/
def initEntry (rot : Rotation) (order : ColorOrder) (s : State) : State := (s.latch rot order).setWinValid false

/-- INITIALIZE (R155). -/
def execInit (rot : Rotation) (order : ColorOrder) (s : State) : Out :=
  issue .init true none (fun t => initLoop 18 (initEntry rot order t)) s

/-- Whether the INITIALIZE in progress stands at the slot of this kind (R183). -/
def slotInPlace (k : FrameKind) (s : State) : Bool :=
  decide (s.life = .resetDone) && decide (slotKinds[s.step.toNat]? = some k)

/-- One slot of the INITIALIZE in progress. -/
def runSlot (k : FrameKind) (s : State) : Out :=
  runFrame .init (slotInPlace k s) true (slotActions s.par (slotOf s.par s.rot s.cord k)) s

/-- FRAME_RATE_A (R159). -/
def execFrameRateA (s : State) : Out := runSlot .frameRateA s

/-- FRAME_RATE_B (R160). -/
def execFrameRateB (s : State) : Out := runSlot .frameRateB s

/-- FRAME_RATE_C (R161). -/
def execFrameRateC (s : State) : Out := runSlot .frameRateC s

/-- INVERSION_CTRL (R162). -/
def execInversionCtrl (s : State) : Out := runSlot .inversionCtrl s

/-- POWER_CTRL_1 (R163). -/
def execPowerCtrl1 (s : State) : Out := runSlot .powerCtrl1 s

/-- POWER_CTRL_2 (R164). -/
def execPowerCtrl2 (s : State) : Out := runSlot .powerCtrl2 s

/-- POWER_CTRL_3 (R165). -/
def execPowerCtrl3 (s : State) : Out := runSlot .powerCtrl3 s

/-- POWER_CTRL_4 (R166). -/
def execPowerCtrl4 (s : State) : Out := runSlot .powerCtrl4 s

/-- POWER_CTRL_5 (R167). -/
def execPowerCtrl5 (s : State) : Out := runSlot .powerCtrl5 s

/-- VCOM_LEVEL (R168). -/
def execVcomLevel (s : State) : Out := runSlot .vcomLevel s

/-- GAMMA_A (R169). -/
def execGammaA (s : State) : Out := runSlot .gammaA s

/-- GAMMA_B (R170). -/
def execGammaB (s : State) : Out := runSlot .gammaB s

/-- PIXEL_FORMAT (R171). -/
def execPixelFormat (s : State) : Out := runSlot .pixelFormat s

/-- ORIENTATION (R172): the payload is `orientation_byte(ROT, CORD)`. -/
def execOrientation (s : State) : Out := runSlot .orientation s

/-- SLEEP_EXIT (R175): the frame, then the settle delay. -/
def execSleepExit (s : State) : Out := runSlot .sleepExit s

/-- DISPLAY_ON (R176): the frame, then the settle delay. -/
def execDisplayOn (s : State) : Out := runSlot .displayOn s

end Sys2Proof.Machine
end

