-- ==== Sys2Proof/Machine/WindowProtocol.lean ====
section
/-! DEFINITION. The Addressing-Window Protocol (spec/43_window.md): SET_WINDOW, COL_RANGE, ROW_RANGE, MEM_WRITE.

COL_RANGE and ROW_RANGE belong to two operations: SET_WINDOW (R201, R202) and, with the pre-seed operands, slots 14 and 15
of INITIALIZE (R173, R174). LIFE tells which one is in progress: SET_WINDOW runs in READY only, INITIALIZE in RESET_DONE
only (spec/60_exceptions.md Table 60-C). -/

namespace Sys2Proof.Machine

open Sys2Proof

/-- COL_RANGE (R201): the frame, then the mirror. -/
def colRangeActions (c : CmdBytes) (xs xe : Half) : List Action :=
  sendActions (cmdOf c .colRange) (rangeData xs xe) ++ [.setCols xs xe]

/-- ROW_RANGE (R202): the frame, then the mirror. -/
def rowRangeActions (c : CmdBytes) (ys ye : Half) : List Action :=
  sendActions (cmdOf c .rowRange) (rangeData ys ye) ++ [.setRows ys ye]

/-- MEM_WRITE (R203): the command phase only. -/
def memWriteActions (c : CmdBytes) : List Action := sendActions (cmdOf c .memWrite) []

/-- SET_WINDOW's body (R200, R204): nothing is elided, WIN_VALID is 1 only once both range frames are complete. -/
def setWindowActions (c : CmdBytes) (w : Window) : List Action :=
  .setWinValid false ::
    (colRangeActions c w.xs w.xe ++ rowRangeActions c w.ys w.ye ++ [.setWinValid true] ++ memWriteActions c)

/-- SET_WINDOW run alone (R200). -/
def execSetWindow (w : Window) (s : State) : Out :=
  issue .setWindow (windowOk s w) none (fun t => runActions (setWindowActions t.par.cmd w) t) s

/-- COL_RANGE as a frame of the operation in progress. -/
def execColRange (xs xe : Half) (s : State) : Out :=
  if s.life = .resetDone then
    runFrame .init (slotInPlace .colRange s && decide (xs = s.par.preseed.xs) && decide (xe = s.par.preseed.xe)) true
      (slotActions s.par (slotOf s.par s.rot s.cord .colRange)) s
  else
    runFrame .setWindow (decide (s.life = .ready)) (axisWf xs xe (colExtent s.cfg s.rot))
      (colRangeActions s.par.cmd xs xe) s

/-- ROW_RANGE as a frame of the operation in progress. -/
def execRowRange (ys ye : Half) (s : State) : Out :=
  if s.life = .resetDone then
    runFrame .init (slotInPlace .rowRange s && decide (ys = s.par.preseed.ys) && decide (ye = s.par.preseed.ye)) true
      (slotActions s.par (slotOf s.par s.rot s.cord .rowRange)) s
  else
    runFrame .setWindow (decide (s.life = .ready)) (axisWf ys ye (rowExtent s.cfg s.rot))
      (rowRangeActions s.par.cmd ys ye) s

/-- MEM_WRITE as a frame of the operation in progress. -/
def execMemWrite (s : State) : Out :=
  runFrame .setWindow (decide (s.life = .ready)) true (memWriteActions s.par.cmd) s

end Sys2Proof.Machine
end

