-- ==== Sys2Proof/Machine/Pixel.lean ====
section
/-! DEFINITION. The Pixel Pipeline (spec/44_pixel_pipeline.md): FLUSH. -/

namespace Sys2Proof.Machine

open Sys2Proof

/-- SERIALIZE (R217): each pixel of the window once, row-major; no primitive call. -/
def serializeActions (g : Cfg) (rot : Rotation) (w : Window) : List Action :=
  (windowAddresses g rot w).map .pushPixel

/-- PIXEL_STREAM (R218): DC HIGH once, then the chunks of TXBUF. -/
def streamActions (s : State) : List Action :=
  .dc .high :: (chunks s.cfg.maxXfer s.txbuf).map .xfer

/-- Steps (1) to (3) of FLUSH (R215), from PIX = 0 and TXBUF empty. -/
def flushBody (w : Window) (s : State) : Progress :=
  (runActions (setWindowActions s.par.cmd w ++ serializeActions s.cfg s.rot w) s.clearPixels).andThen
    fun t => runActions (streamActions t) t

/-- The premise of an admitted FLUSH (R292, D21): the FrameBuffer has COL_EXTENT · ROW_EXTENT pixels (R61), neither fewer nor
more; "A model treats a violation as *refuse*" (D21). Where U12 speaks of one "too small for the window":
notes/assumptions/17.md (DEDUCED, safe). -/
def flushPremise (s : State) : Option Refusal :=
  if s.fbPixels = frameBufferPixels s.cfg s.rot then none else some .frameBufferSize

/-- FLUSH (R215). -/
def execFlush (w : Window) (s : State) : Out :=
  issue .flush (windowOk s w) (flushPremise s) (flushBody w) s

end Sys2Proof.Machine
end

