-- ==== Sys2Proof/Machine/Reset.lean ====
section
/-! DEFINITION. The Reset Sequencer (spec/41_reset_sequencer.md): HW_RESET. -/

namespace Sys2Proof.Machine

open Sys2Proof

/-- The calls of HW_RESET in their order (R140, R141): two line drives, three waits. -/
def hwResetActions (d : Delays) : List Action :=
  [.rst .assert, .sleep d.rstAssert, .rst .deassert, .sleep d.rstHold, .sleep d.rstSettle]

/-- HW_RESET (R140): "admitted in every value of LIFE"; on entry WIN_VALID <- 0 and LIFE <- UNRESET. -/
def execHwReset (s : State) : Out :=
  issue .hwReset true none
    (fun t => runActions (hwResetActions t.par.delays) ((t.setWinValid false).setLife .unreset)) s

end Sys2Proof.Machine
end

