-- ==== Sys2Proof/Machine/Transport.lean ====
section
/-! DEFINITION. Bus Transport (spec/40_bus_transport.md): SEND run alone. The phases it is made of are `cmdPhase`,
`dataPhase` and `sendActions` in Ops.lean. -/

namespace Sys2Proof.Machine

open Sys2Proof

/-- SEND as a stand-alone operation (R120, R129): on entry WIN_VALID <- 0; `cmd` and `data` are not interpreted. -/
def execSend (cmd : Byte) (data : List Byte) (s : State) : Out :=
  issue .send true none (fun t => runActions (sendActions cmd data) (t.setWinValid false)) s

end Sys2Proof.Machine
end

