-- ==== Sys2Proof/Machine/Dispatch.lean ====
section
/-! DEFINITION. The dispatch: one arm per constructor of Instr, each one direct call of its meaning. -/

namespace Sys2Proof.Machine

open Sys2Proof

def exec (i : Instr) (s : State) : Host.Outcome State Fault Refusal :=
  match i with
  | .hwReset => Sys2Proof.Machine.execHwReset s
  | .init rot order => Sys2Proof.Machine.execInit rot order s
  | .flush w => Sys2Proof.Machine.execFlush w s
  | .setWindow w => Sys2Proof.Machine.execSetWindow w s
  | .send cmd data => Sys2Proof.Machine.execSend cmd data s
  | .frameRateA => Sys2Proof.Machine.execFrameRateA s
  | .frameRateB => Sys2Proof.Machine.execFrameRateB s
  | .frameRateC => Sys2Proof.Machine.execFrameRateC s
  | .inversionCtrl => Sys2Proof.Machine.execInversionCtrl s
  | .powerCtrl1 => Sys2Proof.Machine.execPowerCtrl1 s
  | .powerCtrl2 => Sys2Proof.Machine.execPowerCtrl2 s
  | .powerCtrl3 => Sys2Proof.Machine.execPowerCtrl3 s
  | .powerCtrl4 => Sys2Proof.Machine.execPowerCtrl4 s
  | .powerCtrl5 => Sys2Proof.Machine.execPowerCtrl5 s
  | .vcomLevel => Sys2Proof.Machine.execVcomLevel s
  | .gammaA => Sys2Proof.Machine.execGammaA s
  | .gammaB => Sys2Proof.Machine.execGammaB s
  | .pixelFormat => Sys2Proof.Machine.execPixelFormat s
  | .orientation => Sys2Proof.Machine.execOrientation s
  | .colRange xs xe => Sys2Proof.Machine.execColRange xs xe s
  | .rowRange ys ye => Sys2Proof.Machine.execRowRange ys ye s
  | .memWrite => Sys2Proof.Machine.execMemWrite s
  | .sleepExit => Sys2Proof.Machine.execSleepExit s
  | .displayOn => Sys2Proof.Machine.execDisplayOn s

end Sys2Proof.Machine
end

