-- ==== Sys2Proof/Machine/Serve.lean ====
section
/-! DEFINITION. What the host does to the machine (spec/00_scope.md R9): issuing an operation, writing its FrameBuffer
between operations (spec/20_memory.md R77), creating and destroying the PanelHandle (spec/70_reset_and_hazards.md R280,
R293); and the pseudo-operations (spec/30_encoding.md R106). -/

namespace Sys2Proof.Machine

open Sys2Proof

/-- A descriptor: decoded under the command bytes in force, then executed; rejected by name where it names nothing. -/
def serveDescriptor (d : Descriptor) (s : State) : Out :=
  match decode s.par.cmd d with
  | .ok i => exec i s
  | .error why => .refused (.illegalDescriptor why)

/-- The host writes a pixel of its FrameBuffer; "during a FLUSH" it must not (R77; DEDUCED, unsafe for a host
that does: notes/assumptions/9.md). -/
def servePixel (addr : Nat) (value : Half) (s : State) : Out :=
  if s.busy then .refused .busy
  else if s.fbPixels ≤ addr then .refused .noSuchPixel
  else .next { s with fb := writePixel s.fb addr value }

/-- The host binds a FrameBuffer of a size, with no pixel written. -/
def serveFrameBuffer (pixels : Nat) (s : State) : Out :=
  if s.busy then .refused .busy
  else .next { s with fb := [], fbPixels := pixels }

/-- Block reset (R280): every register of the PanelHandle at its reset value, the given parameters in force; the host's
FrameBuffer and what the host and the environment will do are not the PanelHandle's. Ill-formed parameters are refused
(R284). DEDUCED, safe: notes/assumptions/13.md. -/
def serveAttach (cfg : Cfg) (par : Params) (s : State) : Out :=
  if s.busy then .refused .busy
  else if !parametersWf cfg par then .refused .illFormedParameters
  else
    .next { State.blockReset cfg par with
            fb := s.fb, fbPixels := s.fbPixels, env := s.env, requests := s.requests }

/-- Detach (R293): only with BUSY = 0, no primitive call, no register changes. -/
def serveDetach (s : State) : Out :=
  if !s.attached then .refused .noPanelHandle
  else if s.busy then .refused .busy
  else .next { s with attached := false }

/-- One request. -/
def serve : Request → State → Out
  | .hostOp bytes, s => serveDescriptor (.host bytes) s
  | .frame bytes, s => serveDescriptor (.frame bytes) s
  | .setPixel addr value, s => servePixel addr value s
  | .bindFrameBuffer pixels, s => serveFrameBuffer pixels s
  | .attach cfg par, s => serveAttach cfg par s
  | .detach, s => serveDetach s

/-- Going on after a step. -/
def outThen (o : Out) (f : State → Out) : Out :=
  match o with
  | .next s => f s
  | .fault r => .fault r
  | .refused r => .refused r

/-- `RESET_AND_INIT rot, order` (R106): HW_RESET, "then, if that returned Ok", INITIALIZE. -/
def resetAndInit (rot : Rotation) (order : ColorOrder) (s : State) : Out :=
  outThen (execHwReset s) fun t => if t.err = .ok then execInit rot order t else .next t

/-- `FLUSH_FULL` (R106): FLUSH of the visible window. -/
def flushFull (s : State) : Out := execFlush (visibleWindow s.cfg s.rot) s

/-- `PRESEED` (R106): slots 14 and 15 of INIT_TABLE, in the INITIALIZE that runs them; "it is not issuable alone". -/
def preseed (s : State) : Out :=
  outThen (runSlot .colRange s) fun t => if t.busy then runSlot .rowRange t else .next t

/-- The registers that put the machine at a frame: the operation that runs it, in progress (BUSY = 1), at the frame's
slot (R183). COL_RANGE, ROW_RANGE and MEM_WRITE are put in a SET_WINDOW, the others in an INITIALIZE. -/
def atFrame (k : FrameKind) (s : State) : State :=
  match k with
  | .colRange => { s with busy := true, life := .ready }
  | .rowRange => { s with busy := true, life := .ready }
  | .memWrite => { s with busy := true, life := .ready }
  | other => { s with busy := true, life := .resetDone, step := BitVec.ofNat 5 (slotKinds.idxOf other) }

/-- A descriptor as the next request; for a frame, the machine is put where that frame runs. -/
def placeDescriptor (d : Descriptor) (s : State) : State :=
  match d with
  | .host bytes => { s with requests := .hostOp bytes :: s.requests }
  | .frame bytes =>
    let t := { s with requests := .frame bytes :: s.requests }
    match (bytes.head?).bind (kindOfCmd s.par.cmd) with
    | some k => atFrame k t
    | none => t

end Sys2Proof.Machine
end

