-- ==== Sys2Proof/Machine/Step.lean ====
section
/-! DEFINITION. One step of the machine: the next request of the host is served; with none, the block idles with all
state retained (spec/60_exceptions.md R257, spec/10_state.md R40). A host operation is one step (spec/00_scope.md R19,
spec/70_reset_and_hazards.md R290). -/

namespace Sys2Proof.Machine

open Sys2Proof

/-- One step. -/
def step (s : State) : Host.Outcome State Fault Refusal :=
  match s.requests with
  | [] => .next s
  | r :: rest => serve r { s with requests := rest }

/-- `s` with the instruction of a table word as the next request, and, for a frame kind, with the operation that runs it
in progress at that frame (DESIGN CHOICE, safe: notes/assumptions/2.md, 6.md). -/
def State.withFetchWord (s : State) (nbits w : Nat) : State :=
  placeDescriptor (descriptorOfWord s.par.cmd nbits w) s

end Sys2Proof.Machine
end

