-- ==== Sys2Proof/Machine/Wire.lean ====
section
/-! DEFINITION. What is observed of the block: the wire projection and its readings (spec/00_scope.md R16,
spec/20_memory.md R85, R86), the frames a wire reads as (spec/30_encoding.md R103), what a transfer may have delivered
(spec/40_bus_transport.md R125), the requested sleep (spec/70_reset_and_hazards.md R295), and the framing rule
(spec/30_encoding.md R94). -/

namespace Sys2Proof.Machine

open Sys2Proof

/-- The wire: transfers tagged with the mode-select level, in order (R86). -/
abbrev Wire := List (Level × List Byte)

/-- The transfer of an event, if it is one. -/
def eventTransfer : Event → Option (Level × List Byte)
  | .gpioRst _ => none
  | .gpioDc _ => none
  | .busXfer dc bs => some (dc, bs)
  | .sleep _ => none

/-- `wire(trace)` (R16): "keeps only the `BusXfer(dc, bs)` events", the failing ones too. -/
def wire (trace : List Entry) : Wire := trace.filterMap fun e => eventTransfer e.event

/-- All bytes of a wire, in order. -/
def wireBytes (w : Wire) : List Byte := w.flatMap fun x => x.2

/-- A wire with adjacent data-phase transfers merged (R86). -/
def mergeData : Wire → Wire
  | [] => []
  | (.low, bs) :: rest => (.low, bs) :: mergeData rest
  | (.high, bs) :: rest =>
    match mergeData rest with
    | (.high, cs) :: more => (.high, bs ++ cs) :: more
    | more => (.high, bs) :: more

/-- Controller-equivalence of two wires (R86). -/
def controllerEquivalent (v w : Wire) : Prop := mergeData v = mergeData w

/-- The wire form of a CommandFrame (R93). -/
def frameWire (f : Frame) : Wire := (.low, [f.cmd]) :: (if f.data = [] then [] else [(.high, f.data)])

/-- The decoding rule of R103: split before every `(LOW, [c])`. The first component is the data that stands before any
command byte; `none` if a command phase does not carry exactly one byte. -/
def splitFrames : Wire → Option (List Byte × List Frame)
  | [] => some ([], [])
  | (.high, bs) :: rest => (splitFrames rest).map fun x => (bs ++ x.1, x.2)
  | (.low, [c]) :: rest => (splitFrames rest).map fun x => ([], { cmd := c, data := x.1 } :: x.2)
  | (.low, _) :: _ => none

/-- The frames of a wire; `none` where a piece "is not a frame" (R103). -/
def framesOfWire (w : Wire) : Option (List Frame) :=
  match splitFrames w with
  | some ([], fs) => some fs
  | _ => none

/-- What a transfer may have delivered (R125): all of it when it answered `ok`, any prefix when it failed. -/
def mayHaveDelivered (e : Entry) (received : List Byte) : Bool :=
  match e.event with
  | .busXfer _ bs => if e.ok then received == bs else received.isPrefixOf bs
  | _ => received == []

/-- The milliseconds of the `Sleep` calls that answered `ok`. -/
def sleptMs (trace : List Entry) : Nat :=
  (trace.map fun e =>
    match e.event with
    | .sleep n => if e.ok then n else 0
    | _ => 0).sum

/-- How many calls of a kind a trace has. -/
def countXfers (trace : List Entry) : Nat := (wire trace).length

/-- How many `GpioDc` calls a trace has (R225). -/
def countDcDrives (trace : List Entry) : Nat :=
  trace.countP fun e => match e.event with | .gpioDc _ => true | _ => false

/-- How many `Sleep` calls a trace has. -/
def countSleeps (trace : List Entry) : Nat :=
  trace.countP fun e => match e.event with | .sleep _ => true | _ => false

/-- R94 on a trace, `frameOpen` saying whether a command byte has been sent since the last panel reset: a command phase
has exactly one byte, and no data phase comes before the first command byte. -/
def framedFrom (frameOpen : Bool) : List Entry → Bool
  | [] => true
  | e :: rest =>
    match e.event with
    | .gpioRst .assert => framedFrom false rest
    | .gpioRst .deassert => framedFrom frameOpen rest
    | .gpioDc _ => framedFrom frameOpen rest
    | .sleep _ => framedFrom frameOpen rest
    | .busXfer .low bs => decide (bs.length = 1) && framedFrom true rest
    | .busXfer .high bs => frameOpen && decide (1 ≤ bs.length) && framedFrom frameOpen rest

/-- The framing invariant (R94) of a whole trace. -/
def framed (trace : List Entry) : Bool := framedFrom false trace

end Sys2Proof.Machine
end

