-- ==== Sys2Proof/Machine/Sink.lean ====
section
/-! DEFINITION. SINK, the environment reference model of the controller's pixel sink (spec/20_memory.md R80 to R84).

"no rule of the block reads it" (R80), so it is no part of State: it is computed from the entries a step appends to
TRACE. What R84 calls unspecified is no value at all here: GRAM is a partial map, and what may have changed is taken out
of it (DESIGN CHOICE, safe: notes/assumptions/14.md). -/

namespace Sys2Proof.Machine

open Sys2Proof

/-- The state of SINK (R80), and the model's own bookkeeping: `colsSure`, `rowsSure` (that axis of the window was
programmed by a complete range frame and nothing since made it unknown), `last` (the command byte just received, no data
yet) and `half` (the first byte of a pixel whose second has not come). -/
structure Sink where
  sxs : Half
  sxe : Half
  sys : Half
  sye : Half
  cx : Nat
  cy : Nat
  writing : Bool
  gram : List ((Nat × Nat) × Half)
  known : Bool
  colsSure : Bool
  rowsSure : Bool
  last : Option Byte
  half : Option Byte
  deriving DecidableEq, Repr

/-- SINK after block reset: nothing is known. -/
def Sink.unknown : Sink :=
  { sxs := 0#16, sxe := 0#16, sys := 0#16, sye := 0#16, cx := 0, cy := 0, writing := false, gram := [],
    known := false, colsSure := false, rowsSure := false, last := none, half := none }

/-- `GRAM(col, row)`, none where unknown. -/
def gramAt (g : List ((Nat × Nat) × Half)) (c r : Nat) : Option Half :=
  match g with
  | [] => none
  | (k, v) :: rest => if k = (c, r) then some v else gramAt rest c r

/-- Whether `(c, r)` lies in the current window. -/
def Sink.covers (k : Sink) (c r : Nat) : Bool :=
  decide (k.sxs.toNat ≤ c) && decide (c ≤ k.sxe.toNat) && decide (k.sys.toNat ≤ r) && decide (r ≤ k.sye.toNat)

/-- R84: `known` becomes false "and GRAM inside the current window may hold any values"; all of GRAM when the window
itself is not known. -/
def Sink.lose (k : Sink) : Sink :=
  { k with
    known := false
    gram := if k.colsSure && k.rowsSure then k.gram.filter fun x => !k.covers x.1.1 x.1.2 else [] }

/-- Whether the memory write in progress has received exactly its `w·h` pixels. -/
def Sink.complete (k : Sink) : Bool :=
  decide (k.half = none) && decide (k.cx = k.sxs.toNat) && decide (k.cy = k.sye.toNat + 1)

/-- One pixel of a memory write (R83): GRAM at the cursor is written and the cursor advances. A pixel that arrives past the
window's end is written all the same, and is case (i) of R84. -/
def Sink.takePixel (k : Sink) (p q : Byte) : Sink :=
  let wrote : Sink :=
    if k.colsSure && k.rowsSure then { k with half := none, gram := ((k.cx, k.cy), ofBe16 p q) :: k.gram }
    else { k with half := none }.lose
  let moved : Sink :=
    if k.cx < k.sxe.toNat then { wrote with cx := k.cx + 1 } else { wrote with cx := k.sxs.toNat, cy := k.cy + 1 }
  if k.sye.toNat < k.cy then moved.lose else moved

/-- One byte of a memory write: bytes are taken two at a time, across transfer boundaries (R83). -/
def Sink.takeByte (k : Sink) (b : Byte) : Sink :=
  match k.half with
  | none => { k with half := some b }
  | some p => k.takePixel p b

/-- A command-phase transfer that was delivered (R82): a memory write that it ends too early is case (i) of R84. -/
def Sink.takeCommand (c : CmdBytes) (k : Sink) (bs : List Byte) : Sink :=
  let k := if k.writing && !k.complete then k.lose else k
  match bs with
  | [b] =>
    if b = c.memWrite then
      { k with cx := k.sxs.toNat, cy := k.sys.toNat, writing := true, last := some b, half := none }
    else { k with writing := false, last := some b, half := none }
  | _ => { k with writing := false, last := none, half := none }.lose

/-- Case (iv) of R84 for one axis that was just programmed: ordered, and inside the controller's memory. R84 makes GRAM
unspecified inside the current window; which window an ill-formed range leaves is open, so the model takes both axes as
unknown and drops all of GRAM (DESIGN CHOICE, safe: notes/assumptions/14.md). -/
def Sink.checkAxis (k : Sink) (a b : Half) (extent : Nat) : Sink :=
  if axisWf a b extent then k else { k with colsSure := false, rowsSure := false }.lose

/-- A data-phase transfer that was delivered (R81, R83; case (iii) of R84 where no rule consumes it). -/
def Sink.takeData (c : CmdBytes) (colExt rowExt : Nat) (k : Sink) (bs : List Byte) : Sink :=
  if k.writing then bs.foldl Sink.takeByte k
  else
    match k.last, bs with
    | some b, [p, q, r, t] =>
      if b = c.colRange then
        { k with sxs := ofBe16 p q, sxe := ofBe16 r t, colsSure := true, last := none }.checkAxis
          (ofBe16 p q) (ofBe16 r t) colExt
      else if b = c.rowRange then
        { k with sys := ofBe16 p q, sye := ofBe16 r t, rowsSure := true, last := none }.checkAxis
          (ofBe16 p q) (ofBe16 r t) rowExt
      else { k with last := none }.lose
    | _, _ => { k with last := none }.lose

/-- The controller is in an unspecified state: nothing is known of its memory, and its window and cursor are unknown until
they are programmed again. -/
def Sink.forget (k : Sink) : Sink :=
  { k with known := false, writing := false, gram := [], colsSure := false, rowsSure := false, last := none,
           half := none }

/-- What SINK does at one entry of the trace; `colExt`, `rowExt` are the extents of the controller's memory. Any call that
failed interrupts its sequence, after which the controller is in "an unspecified state" (R38, U2) and its window unknown
(R206): a failing transfer, which is case (ii) of R84, and a failing drive or `Sleep` too. Putting the panel into reset
is case (v). Both drop all of GRAM, not what lies inside the window only (DESIGN CHOICE, safe:
notes/assumptions/14.md). -/
def Sink.feed (c : CmdBytes) (colExt rowExt : Nat) (k : Sink) (e : Entry) : Sink :=
  match e.ok, e.event with
  | false, _ => k.forget
  | true, .gpioRst .assert => k.forget
  | true, .gpioRst .deassert => k
  | true, .gpioDc _ => k
  | true, .sleep _ => k
  | true, .busXfer .low bs => k.takeCommand c bs
  | true, .busXfer .high bs => k.takeData c colExt rowExt bs

/-- SINK over a stretch of the trace. -/
def Sink.feedAll (c : CmdBytes) (colExt rowExt : Nat) (k : Sink) (es : List Entry) : Sink :=
  es.foldl (Sink.feed c colExt rowExt) k

/-- The extents of the controller's memory (case (iv) of R84) for what a step that ended in `t` sent, columns first: in READY
those under the latched ROT (R63). Elsewhere ROT is unspecified or stale, no rule reads it (R22, R40, R146, R178) and the
spec leaves the extents open (N20): there a range counts as inside only where it is so under every rotation (DESIGN
CHOICE, safe: notes/assumptions/14.md). -/
def memoryExtents (t : State) : Nat × Nat :=
  if t.life = .ready then (colExtent t.cfg t.rot, rowExtent t.cfg t.rot)
  else (min t.cfg.virtW.toNat t.cfg.virtH.toNat, min t.cfg.virtW.toNat t.cfg.virtH.toNat)

/-- SINK over one step of the machine from `s` to `t`. A step that served an attach is block reset (R280): TRACE starts
anew, and with it SINK, whose `known` is "false after block reset" (R80). Any other step feeds SINK the entries it
appended, and, when it was a successful INITIALIZE (LIFE from RESET_DONE, which only a successful HW_RESET gives, to
READY), "`known` becomes true again, with GRAM wholly unknown" (R84). -/
def Sink.observe (k : Sink) (s t : State) : Sink :=
  match s.requests with
  | .attach _ _ :: _ => Sink.unknown
  | _ =>
    let fed := k.feedAll t.par.cmd (memoryExtents t).1 (memoryExtents t).2 (t.trace.drop s.trace.length)
    if s.life = .resetDone ∧ t.life = .ready then { fed with known := true, gram := [] } else fed

end Sys2Proof.Machine
end

