-- ==== Sys2Proof/Safety.lean ====
section
/-! DEFINITION. What counts as a safe run, in the terms the statements use: the environment's answers that let an
operation run through, the invariants the spec states of the block's registers and of its trace, and the states a run
can reach. -/

namespace Sys2Proof.Machine

open Sys2Proof

/-- Whether an answer is `ok`. -/
def Answer.isOk : Answer → Bool
  | .ok _ => true
  | .fail => false
  | .hang => false

/-- The environment answers `ok` to the next `n` calls. -/
def answersOk (n : Nat) (s : State) : Bool := (s.env.take n).all Answer.isOk

/-- The environment answers `ok` to the next `n` calls and `fail` to the one after them. -/
def failsAfter (n : Nat) (s : State) : Bool := answersOk n s && decide (s.env[n]? = some .fail)

/-- No answer still to come is missing (R283: "each call answers `ok` or `fail`"). -/
def everyCallAnswered (s : State) : Bool := s.env.all fun a => decide (a ≠ .hang)

/-- The PanelHandle can take a host operation: it exists, its parameters are well-formed, none is in progress. -/
def idle (s : State) : Bool := s.attached && parametersWf s.cfg s.par && !s.busy

/-- An operation of the PanelHandle is in progress. -/
def inProgress (s : State) : Bool := s.attached && parametersWf s.cfg s.par && s.busy

/-- The entries a step from `s` to `t` appended to TRACE. -/
def newEntries (s t : State) : List Entry := t.trace.drop s.trace.length

/-- A descriptor as the request that carries it. -/
def requestOf : Descriptor → Request
  | .host bytes => .hostOp bytes
  | .frame bytes => .frame bytes

/-- Whether an instruction is a host operation (Table 30-A); the others are the frame kinds (Table 30-B). -/
def isOperation : Instr → Bool
  | .hwReset | .init _ _ | .flush _ | .setWindow _ | .send _ _ => true
  | .frameRateA | .frameRateB | .frameRateC | .inversionCtrl => false
  | .powerCtrl1 | .powerCtrl2 | .powerCtrl3 | .powerCtrl4 | .powerCtrl5 => false
  | .vcomLevel | .gammaA | .gammaB | .pixelFormat | .orientation => false
  | .colRange _ _ | .rowRange _ _ | .memWrite | .sleepExit | .displayOn => false

/-- Whether an instruction's operands are well-formed where it is issued: under ROT in READY, under some rotation elsewhere
(`windowOk`). The axis extents under 180° and 270° are those under 0° and 90° (R63). -/
def operandsOk (i : Instr) (s : State) : Bool :=
  if s.life = .ready then i.wf s.cfg s.rot else i.wf s.cfg .deg0 || i.wf s.cfg .deg90

/-- Calls that all answered `ok`, as TRACE entries. -/
def okEntries (es : List Event) : List Entry := es.map fun e => { event := e, ok := true }

/-- A call that answered `fail`, as a TRACE entry. -/
def failedEntry (e : Event) : Entry := { event := e, ok := false }

/-- The calls of a frame (R93, R120). -/
def frameCalls (f : Frame) : List Event :=
  [.gpioDc .low, .busXfer .low [f.cmd]] ++ (if f.data = [] then [] else [.gpioDc .high, .busXfer .high f.data])

/-- The calls of HW_RESET (R140). -/
def hwResetCalls (d : Delays) : List Event :=
  [.gpioRst .assert, .sleep d.rstAssert, .gpioRst .deassert, .sleep d.rstHold, .sleep d.rstSettle]

/-- The calls of SET_WINDOW (R200). -/
def setWindowCalls (c : CmdBytes) (w : Window) : List Event :=
  frameCalls { cmd := c.colRange, data := rangeData w.xs w.xe } ++
    frameCalls { cmd := c.rowRange, data := rangeData w.ys w.ye } ++ frameCalls { cmd := c.memWrite, data := [] }

/-- The k-th pixel of a FLUSH (R216): column `xs + (k mod w)`, row `ys + (k div w)`. -/
def flushPixel (s : State) (w : Window) (k : Nat) : Half :=
  readPixel s.fb (pixelAddress s.cfg s.rot (w.xs.toNat + k % windowWidth w) (w.ys.toNat + k / windowWidth w))

/-- The pixel payload of a FLUSH (R217): `w·h` pixels, two bytes each, high byte first. -/
def flushPayload (s : State) (w : Window) : List Byte :=
  (List.range (windowWidth w * windowHeight w)).flatMap fun k => be16 (flushPixel s w k)

/-- The calls of FLUSH (R215, R218). -/
def flushCalls (s : State) (w : Window) : List Event :=
  setWindowCalls s.par.cmd w ++
    (.gpioDc .high :: (chunks s.cfg.maxXfer (flushPayload s w)).map fun bs => .busXfer .high bs)

/-- Which error a failing call raises (R241), `k` the transfers of the operation that had succeeded. -/
def errorFor (k : Nat) : Event → Result
  | .gpioRst _ => .sequenceError .gpioRst
  | .gpioDc _ => .sequenceError .gpioDc
  | .busXfer _ _ => .busError k
  | .sleep _ => .sequenceError .delay

/-- How many of some calls are transfers. -/
def transfersIn (es : List Event) : Nat := es.countP fun e => (eventTransfer e).isSome

/-- The mode-select level after some calls that answered `ok`: the last one driven, else the one before. -/
def levelAfter (before : Level) (es : List Event) : Level :=
  es.foldl (fun l e => match e with | .gpioDc m => m | _ => l) before

/-- The reset line after some calls that answered `ok`: the last level driven, else the one before. -/
def resetLineAfter (before : ResetLevel) (es : List Event) : ResetLevel :=
  es.foldl (fun l e => match e with | .gpioRst m => m | _ => l) before

/-- Whether a call is a `Sleep`. -/
def isSleep : Event → Bool
  | .gpioRst _ => false
  | .gpioDc _ => false
  | .busXfer _ _ => false
  | .sleep _ => true

/-- The overshoot of an answer, 0 where it is not `ok`. -/
def Answer.overshoot : Answer → Nat
  | .ok extra => extra
  | .fail => 0
  | .hang => 0

/-- What NOW advances by over some calls that answered `ok` (R14): for each `Sleep(n)` the `n` asked for and the overshoot
the environment drew; nothing for the other calls (R17). -/
def elapsed : List Event → List Answer → Nat
  | [], _ => 0
  | .sleep n :: es, env => n + (env.headD (.ok 0)).overshoot + elapsed es (env.drop 1)
  | .gpioRst _ :: es, env => elapsed es (env.drop 1)
  | .gpioDc _ :: es, env => elapsed es (env.drop 1)
  | .busXfer _ _ :: es, env => elapsed es (env.drop 1)

/-- The call that ended an operation, failing (R258). -/
def failingCall (calls : List Event) (n : Nat) : Event := calls.getD n (.gpioDc .low)

/-- The trace after an operation of some calls that stopped at its n-th call (from 0): those before it answered `ok`,
it failed, and none came after. -/
def traceToFailure (calls : List Event) (n : Nat) : List Entry :=
  okEntries (calls.take n) ++ [failedEntry (failingCall calls n)]

/-- One row of Table 42-A, written out: the instruction, its slot number, its frame and its post-delay. -/
structure SlotCase where
  instr : Instr
  number : Nat
  frame : Frame
  delay : Nat
  deriving DecidableEq, Repr

/-- The calls of a row: its frame, then its post-delay (R99). -/
def SlotCase.calls (x : SlotCase) : List Event :=
  frameCalls x.frame ++ (if x.delay = 0 then [] else [.sleep x.delay])

/-- Table 42-A, row by row (R159 to R176). -/
def slotCases (p : Params) (rot : Rotation) (order : ColorOrder) : List SlotCase :=
  [⟨.frameRateA, 0, ⟨p.cmd.frameRateA, p.payload.frameRateA⟩, 0⟩,
   ⟨.frameRateB, 1, ⟨p.cmd.frameRateB, p.payload.frameRateB⟩, 0⟩,
   ⟨.frameRateC, 2, ⟨p.cmd.frameRateC, p.payload.frameRateC⟩, 0⟩,
   ⟨.inversionCtrl, 3, ⟨p.cmd.inversionCtrl, p.payload.inversionCtrl⟩, 0⟩,
   ⟨.powerCtrl1, 4, ⟨p.cmd.powerCtrl1, p.payload.powerCtrl1⟩, 0⟩,
   ⟨.powerCtrl2, 5, ⟨p.cmd.powerCtrl2, p.payload.powerCtrl2⟩, 0⟩,
   ⟨.powerCtrl3, 6, ⟨p.cmd.powerCtrl3, p.payload.powerCtrl3⟩, 0⟩,
   ⟨.powerCtrl4, 7, ⟨p.cmd.powerCtrl4, p.payload.powerCtrl4⟩, 0⟩,
   ⟨.powerCtrl5, 8, ⟨p.cmd.powerCtrl5, p.payload.powerCtrl5⟩, 0⟩,
   ⟨.vcomLevel, 9, ⟨p.cmd.vcomLevel, p.payload.vcomLevel⟩, 0⟩,
   ⟨.gammaA, 10, ⟨p.cmd.gammaA, p.payload.gammaA⟩, 0⟩,
   ⟨.gammaB, 11, ⟨p.cmd.gammaB, p.payload.gammaB⟩, 0⟩,
   ⟨.pixelFormat, 12, ⟨p.cmd.pixelFormat, p.payload.pixelFormat⟩, 0⟩,
   ⟨.orientation, 13, ⟨p.cmd.orientation, [orientationByte p.masks rot order]⟩, 0⟩,
   ⟨.colRange p.preseed.xs p.preseed.xe, 14, ⟨p.cmd.colRange, be16 p.preseed.xs ++ be16 p.preseed.xe⟩, 0⟩,
   ⟨.rowRange p.preseed.ys p.preseed.ye, 15, ⟨p.cmd.rowRange, be16 p.preseed.ys ++ be16 p.preseed.ye⟩, 0⟩,
   ⟨.sleepExit, 16, ⟨p.cmd.sleepExit, []⟩, p.delays.sleepExit⟩,
   ⟨.displayOn, 17, ⟨p.cmd.displayOn, []⟩, p.delays.displayOn⟩]

/-- The golden sequence of INITIALIZE (R179), with its two delays. -/
def initCalls (p : Params) (rot : Rotation) (order : ColorOrder) : List Event :=
  (slotCases p rot order).flatMap SlotCase.calls

/-- The row that the n-th call (from 0) of a run of some rows belongs to. -/
def rowOfCall : List SlotCase → Nat → Nat
  | [], _ => 0
  | x :: rest, n => if n < x.calls.length then 0 else 1 + rowOfCall rest (n - x.calls.length)

/-- Frames of the operation in progress, one after the other; an abort (BUSY = 0) ends the operation. -/
def runFrames : List Instr → State → Out
  | [], s => .next s
  | i :: rest, s => outThen (exec i s) fun t => if t.busy then runFrames rest t else .next t

/-- R30's invariant: whenever LIFE is RESET_DONE, READY or FAILED, RST = DEASSERT. -/
def resetLineReleased (s : State) : Bool := decide (s.life = .unreset) || decide (s.rst = .deassert)

/-- R26: STEP is in the range 0 to 18. -/
def stepInRange (s : State) : Bool := decide (s.step.toNat ≤ 18)

/-- R28: TXBUF is "empty between operations". -/
def txbufEmpty (s : State) : Bool := decide (s.txbuf = [])

/-- Table 10-B: WIN_VALID is set only by SET_WINDOW and INITIALIZE, so between operations it is 1 only in READY. -/
def windowKnownOnlyWhenReady (s : State) : Bool := !s.winValid || decide (s.life = .ready) || s.busy

/-- R284: a PanelHandle exists only with well-formed parameters. -/
def handleWellFormed (s : State) : Bool := !s.attached || parametersWf s.cfg s.par

/-- The invariants of the registers and of FB space together. -/
structure Legal (s : State) : Prop where
  lines : resetLineReleased s = true
  stepRange : stepInRange s = true
  txbuf : txbufEmpty s = true
  window : windowKnownOnlyWhenReady s = true
  handle : handleWellFormed s = true
  memory : Memory.wf s.fb = true

/-- R295: the requested sleep that answered `ok` before LIFE reached its value: 131 ms for RESET_DONE and FAILED, 371 ms
for READY. -/
def sleptEnough (s : State) : Bool :=
  match s.life with
  | .unreset => true
  | .resetDone => decide (131 ≤ sleptMs s.trace)
  | .failed => decide (131 ≤ sleptMs s.trace)
  | .ready => decide (371 ≤ sleptMs s.trace)

/-- R17, R35: NOW is at least the requested sleep that answered `ok`. -/
def clockCoversSleep (s : State) : Bool := decide (sleptMs s.trace ≤ s.now)

/-- The invariants of time together. -/
structure Timed (s : State) : Prop where
  handle : handleWellFormed s = true
  slept : sleptEnough s = true
  clock : clockCoversSleep s = true

/-- What a trace says of the reset line: `none` when it was not released since it was last asserted (or was never
driven), else the milliseconds slept since its release. -/
def settledStep (before : Option Nat) (e : Entry) : Option Nat :=
  match e.event with
  | .gpioRst .assert => none
  | .gpioRst .deassert => if e.ok then some 0 else before
  | .gpioDc _ => before
  | .busXfer _ _ => before
  | .sleep n => if e.ok then before.map (· + n) else before

/-- The settle time a trace ends with. -/
def settledMs (before : Option Nat) (es : List Entry) : Option Nat := es.foldl settledStep before

/-- At least the 130 ms of R141 since the reset line was released. -/
def settledFor130 : Option Nat → Bool
  | none => false
  | some d => decide (130 ≤ d)

/-- R145 on a trace: every transfer comes after the settle wait. -/
def transfersSettledFrom (before : Option Nat) : List Entry → Bool
  | [] => true
  | e :: rest =>
    (!(eventTransfer e.event).isSome || settledFor130 before) && transfersSettledFrom (settledStep before e) rest

/-- R145: every transfer of the trace comes after the settle wait, and one can come now (LIFE is not UNRESET) only if the
wait is over. -/
structure Settled (s : State) : Prop where
  handle : handleWellFormed s = true
  transfers : transfersSettledFrom none s.trace = true
  now : s.life = .unreset ∨ settledFor130 (settledMs none s.trace) = true

/-- R25, R204: WIN_VALID = 1 implies that WIN is the window the wire last programmed, whatever SINK held before. -/
def MirrorHolds (s : State) : Prop :=
  s.winValid = true → ∀ (colExt rowExt : Nat) (k : Sink),
    (k.feedAll s.par.cmd colExt rowExt s.trace).sxs = s.win.xs ∧
    (k.feedAll s.par.cmd colExt rowExt s.trace).sxe = s.win.xe ∧
    (k.feedAll s.par.cmd colExt rowExt s.trace).sys = s.win.ys ∧
    (k.feedAll s.par.cmd colExt rowExt s.trace).sye = s.win.ye

/-- The states a run can reach, from block reset with any host and any environment. -/
inductive Reachable : State → Prop where
  | start (requests : List Request) (env : List Answer) :
      Reachable { State.reset with requests := requests, env := env }
  | next {s t : State} : Reachable s → step s = .next t → Reachable t

end Sys2Proof.Machine
end

