-- ==== Sys2Proof/Certificates/Slice0/Obligations.lean ====
section
/-! DEFINITION. The statements for the provers, in the order of the spec's files. OBLIGATIONS.json says of each which rules
it rests on. Where a statement gives a next state it gives all of it, as an update of the state before: every field
the update does not name is unchanged, the FrameBuffer among them. -/

open Sys2Proof Sys2Proof.Machine

/-! ### Encodings -/

/-- Every instruction decodes from its own encoding, with every operand value (R90 to R92, R98). The packing of a
descriptor's bytes is the model's (notes/assumptions/3.md). -/
def Obligations.DecodeInvertsEncode : Prop :=
  ∀ (c : CmdBytes) (i : Instr), cmdWf c = true → decode c (encode c i) = .ok i

/-- No two descriptors decode to one instruction (notes/assumptions/3.md). -/
def Obligations.EncodeInvertsDecode : Prop :=
  ∀ (c : CmdBytes) (d : Descriptor) (i : Instr), decode c d = .ok i → encode c i = d

/-- Words written out from Tables 30-A and 30-B, with the default command bytes (notes/assumptions/3.md, 5.md). -/
def Obligations.KnownWordsDecode : Prop :=
  decode defaultCmd (.host [0x01#8]) = .ok .hwReset ∧
  decode defaultCmd (.host [0x02#8, 0x01#8, 0x00#8]) = .ok (.init .deg90 .bgr) ∧
  decode defaultCmd (.host [0x03#8, 0x00#8, 0x00#8, 0x00#8, 0x01#8, 0x00#8, 0x02#8, 0x00#8, 0x03#8]) =
    .ok (.flush ⟨0#16, 1#16, 2#16, 3#16⟩) ∧
  decode defaultCmd (.host [0x04#8, 0x00#8, 0xFA#8, 0x01#8, 0x03#8, 0x00#8, 0x00#8, 0x00#8, 0x00#8]) =
    .ok (.setWindow ⟨250#16, 259#16, 0#16, 0#16⟩) ∧
  decode defaultCmd (.host [0x05#8, 0x3A#8, 0x05#8]) = .ok (.send 0x3A#8 [0x05#8]) ∧
  decode defaultCmd (.frame [0xB1#8]) = .ok .frameRateA ∧
  decode defaultCmd (.frame [0xC4#8]) = .ok .powerCtrl5 ∧
  decode defaultCmd (.frame [0xE1#8]) = .ok .gammaB ∧
  decode defaultCmd (.frame [0x36#8]) = .ok .orientation ∧
  decode defaultCmd (.frame [0x2A#8, 0x01#8, 0x2C#8, 0x01#8, 0x2D#8]) = .ok (.colRange 300#16 301#16) ∧
  decode defaultCmd (.frame [0x2C#8]) = .ok .memWrite ∧
  decode defaultCmd (.frame [0x29#8]) = .ok .displayOn

/-- R100: a descriptor with selector 0, 6 or 7 is refused. -/
def Obligations.ReservedSelectorsAreRefused : Prop :=
  ∀ (s : State) (sel : Byte) (ops : List Byte) (rest : List Request), s.requests = .hostOp (sel :: ops) :: rest →
    sel = 0#8 ∨ sel = 6#8 ∨ sel = 7#8 → step s = .refused (.illegalDescriptor .reservedSelector)

/-- R95, R96: a 16-bit value goes high byte first; a range payload is start then end. -/
def Obligations.HalvesAreBigEndian : Prop :=
  (∀ v : Half,
    hi8 v = v.extractLsb' 8 8 ∧ lo8 v = v.extractLsb' 0 8 ∧ be16 v = [hi8 v, lo8 v] ∧
    (hi8 v).toNat = v.toNat / 256 ∧ (lo8 v).toNat = v.toNat % 256 ∧
    v.toNat = (hi8 v).toNat * 256 + (lo8 v).toNat ∧ ofBe16 (hi8 v) (lo8 v) = v) ∧
  (∀ a b : Half, rangeData a b = [hi8 a, lo8 a, hi8 b, lo8 b]) ∧
  rangeData 0#16 83#16 = [0x00#8, 0x00#8, 0x00#8, 0x53#8] ∧
  [0xF800#16, 0x07E0#16, 0x001F#16, 0xFFFF#16].flatMap be16 =
    [0xF8#8, 0x00#8, 0x07#8, 0xE0#8, 0x00#8, 0x1F#8, 0xFF#8, 0xFF#8]

/-- R93: the wire form of frames, and that it can be read back. -/
def Obligations.FramesAreRecoveredFromTheWire : Prop :=
  (∀ f : Frame,
    (f.data = [] → frameWire f = [(.low, [f.cmd])]) ∧
    (f.data ≠ [] → frameWire f = [(.low, [f.cmd]), (.high, f.data)]) ∧
    (wireBytes (frameWire f)).length = 1 + f.data.length) ∧
  (∀ fs : List Frame, framesOfWire (fs.flatMap frameWire) = some fs) ∧
  (∀ (cmd : Byte) (parts : List (List Byte)),
    framesOfWire (frameWire ⟨cmd, []⟩ ++ parts.map fun bs => (Level.high, bs)) = some [⟨cmd, parts.flatten⟩])

/-- R156, R157: the orientation byte. The default values in the last lines are the spec's general knowledge (G2). -/
def Obligations.OrientationByteIsInjective : Prop :=
  (∀ m : Masks, masksWf m = true →
    rotationBits m .deg0 = m.mx ||| m.my ∧ rotationBits m .deg90 = m.mx ||| m.mv ∧
    rotationBits m .deg180 = 0#8 ∧ rotationBits m .deg270 = m.my ||| m.mv ∧
    (∀ r q, rotationBits m r = rotationBits m q → r = q) ∧
    (∀ r o, orientationByte m r o = rotationBits m r ||| (if o = .rgb then m.rgb else 0#8)) ∧
    (∀ r o q p, orientationByte m r o = orientationByte m q p → r = q ∧ o = p) ∧
    (∀ r o, orientationByte m r o &&& ~~~(m.mx ||| m.my ||| m.mv ||| m.rgb) = 0#8)) ∧
  [Rotation.deg0, .deg90, .deg180, .deg270].flatMap
      (fun r => [orientationByte defaultMasks r .bgr, orientationByte defaultMasks r .rgb]) =
    [0xC0#8, 0xC8#8, 0x60#8, 0x68#8, 0x00#8, 0x08#8, 0xA0#8, 0xA8#8]

/-! ### The step -/

/-- A step decodes the next request and executes it; a descriptor that names nothing is refused with the reason (R100,
R101, U11); with no request the block idles (R257, R40; notes/assumptions/2.md). -/
def Obligations.StepRunsTheDecodedInstruction : Prop :=
  ∀ (s : State) (rest : List Request) (bytes : List Byte) (i : Instr) (why : DecodeError),
    (s.requests = [] → step s = .next s) ∧
    (s.requests = .hostOp bytes :: rest → decode s.par.cmd (.host bytes) = .ok i →
      step s = exec i { s with requests := rest }) ∧
    (s.requests = .frame bytes :: rest → decode s.par.cmd (.frame bytes) = .ok i →
      step s = exec i { s with requests := rest }) ∧
    (s.requests = .hostOp bytes :: rest → decode s.par.cmd (.host bytes) = .error why →
      step s = .refused (.illegalDescriptor why)) ∧
    (s.requests = .frame bytes :: rest → decode s.par.cmd (.frame bytes) = .error why →
      step s = .refused (.illegalDescriptor why)) ∧
    (s.requests = requestOf (encode s.par.cmd i) :: rest → cmdWf s.par.cmd = true →
      step s = exec i { s with requests := rest })

/-- Table 60-C (R250, R252): which operation is admitted in which LIFE, what a rejected one does, and what LIFE becomes. The
window of FLUSH and SET_WINDOW passes the check that comes before admission (R243); outside READY that check is the
model's reading (DEDUCED: notes/assumptions/7.md). -/
def Obligations.AdmissionAndLifecycle : Prop :=
  ∀ (s t : State) (rot : Rotation) (order : ColorOrder) (w : Window) (cmd : Byte) (data : List Byte),
    idle s = true →
    (exec .hwReset s = .next t →
      t.err ≠ .sequenceError .order ∧ t.life = if t.err = .ok then .resetDone else .unreset) ∧
    (s.life = .resetDone → exec (.init rot order) s = .next t →
      t.err ≠ .sequenceError .order ∧ t.life = if t.err = .ok then .ready else .failed) ∧
    (s.life ≠ .resetDone → exec (.init rot order) s = .next { s with err := .sequenceError .order }) ∧
    (windowOk s w = true →
      (s.life = .ready → exec (.flush w) s = .next t ∨ exec (.setWindow w) s = .next t →
        t.err ≠ .sequenceError .order ∧ t.life = .ready) ∧
      (s.life ≠ .ready →
        exec (.flush w) s = .next { s with err := .sequenceError .order } ∧
        exec (.setWindow w) s = .next { s with err := .sequenceError .order })) ∧
    (s.life = .resetDone ∨ s.life = .ready → exec (.send cmd data) s = .next t →
      t.err ≠ .sequenceError .order ∧ t.life = s.life) ∧
    (s.life = .unreset ∨ s.life = .failed →
      exec (.send cmd data) s = .next { s with err := .sequenceError .order })

/-! ### HW_RESET -/

/-- R140, R141, R143: HW_RESET when its five calls answer `ok`, from every LIFE. -/
def Obligations.HwResetCompletes : Prop :=
  ∀ s : State, idle s = true → answersOk 5 s = true →
    exec .hwReset s = .next { s with
      rst := .deassert
      life := .resetDone
      winValid := false
      xfers := 0
      err := .ok
      now := s.now + elapsed (hwResetCalls s.par.delays) s.env
      trace := s.trace ++ okEntries (hwResetCalls s.par.delays)
      env := s.env.drop 5 } ∧
    s.par.delays.rstAssert + s.par.delays.rstHold + s.par.delays.rstSettle ≤
      elapsed (hwResetCalls s.par.delays) s.env

/-- R142: HW_RESET when its n-th call (from 0) fails, and that only another HW_RESET is admitted afterwards. The second
clause takes operands that pass the window check of UNRESET, which is the model's reading (DEDUCED:
notes/assumptions/7.md). -/
def Obligations.HwResetAborts : Prop :=
  (∀ (s : State) (n : Nat), idle s = true → n < 5 → failsAfter n s = true →
    exec .hwReset s = .next { s with
      rst := resetLineAfter s.rst ((hwResetCalls s.par.delays).take n)
      life := .unreset
      winValid := false
      xfers := 0
      err := if n = 0 ∨ n = 2 then .sequenceError .gpioRst else .sequenceError .delay
      now := s.now + elapsed ((hwResetCalls s.par.delays).take n) s.env
      trace := s.trace ++ traceToFailure (hwResetCalls s.par.delays) n
      env := s.env.drop (n + 1) }) ∧
  (∀ (s t : State) (i : Instr), exec .hwReset s = .next t → t.err ≠ .ok → isOperation i = true → i ≠ .hwReset →
    operandsOk i t = true → exec i t = .next { t with err := .sequenceError .order })

/-- R144: the order of the line transitions and the waits around them. -/
def Obligations.HwResetLineOrderAndWaits : Prop :=
  ∀ s t : State, exec .hwReset s = .next t → t.err = .ok →
    ∃ before after : List Entry,
      newEntries s t = before ++ ⟨.gpioRst .deassert, true⟩ :: after ∧
      before.head? = some ⟨.gpioRst .assert, true⟩ ∧
      (before.tail ++ after).all (fun e => isSleep e.event) = true ∧
      sleptMs after = s.par.delays.rstHold + s.par.delays.rstSettle ∧ 130 ≤ sleptMs after ∧
      131 ≤ sleptMs (newEntries s t)

/-- R252's consequence: "no transfer is ever made in UNRESET or FAILED", nor by HW_RESET in any LIFE. -/
def Obligations.NoTransferInUnresetOrFailed : Prop :=
  ∀ (s t : State) (i : Instr), exec i s = .next t →
    i = .hwReset ∨ s.life = .unreset ∨ s.life = .failed → wire (newEntries s t) = []

/-! ### INITIALIZE -/

/-- R155, R177, R180: INITIALIZE in RESET_DONE when its calls answer `ok`. -/
def Obligations.InitializeCompletes : Prop :=
  ∀ (s : State) (rot : Rotation) (order : ColorOrder), idle s = true → s.life = .resetDone →
    answersOk (initCalls s.par rot order).length s = true →
    exec (.init rot order) s = .next { s with
      rot := rot
      cord := order
      win := s.par.preseed
      winValid := true
      step := 18#5
      dc := .low
      xfers := transfersIn (initCalls s.par rot order)
      life := .ready
      err := .ok
      now := s.now + elapsed (initCalls s.par rot order) s.env
      trace := s.trace ++ okEntries (initCalls s.par rot order)
      env := s.env.drop (initCalls s.par rot order).length } ∧
    s.par.delays.sleepExit + s.par.delays.displayOn ≤ elapsed (initCalls s.par rot order) s.env

/-- R178, Table 60-B: INITIALIZE when its n-th call (from 0) fails, and that only HW_RESET is admitted afterwards. The second
clause takes operands that pass the window check of FAILED, which is the model's reading (DEDUCED:
notes/assumptions/7.md). -/
def Obligations.InitializeAborts : Prop :=
  (∀ (s : State) (rot : Rotation) (order : ColorOrder) (n : Nat), idle s = true → s.life = .resetDone →
    n < (initCalls s.par rot order).length → failsAfter n s = true →
    exec (.init rot order) s = .next { s with
      rot := rot
      cord := order
      win :=
        if rowOfCall (slotCases s.par rot order) n ≤ 14 then s.win
        else if rowOfCall (slotCases s.par rot order) n = 15 then
          { s.win with xs := s.par.preseed.xs, xe := s.par.preseed.xe }
        else s.par.preseed
      winValid := false
      step := BitVec.ofNat 5 (rowOfCall (slotCases s.par rot order) n)
      dc := levelAfter s.dc ((initCalls s.par rot order).take n)
      xfers := transfersIn ((initCalls s.par rot order).take n)
      life := .failed
      err := errorFor (transfersIn ((initCalls s.par rot order).take n)) (failingCall (initCalls s.par rot order) n)
      now := s.now + elapsed ((initCalls s.par rot order).take n) s.env
      trace := s.trace ++ traceToFailure (initCalls s.par rot order) n
      env := s.env.drop (n + 1) }) ∧
  (∀ (s t : State) (rot : Rotation) (order : ColorOrder) (i : Instr), s.life = .resetDone →
    exec (.init rot order) s = .next t → t.err ≠ .ok → isOperation i = true → i ≠ .hwReset →
    operandsOk i t = true → exec i t = .next { t with err := .sequenceError .order })

/-- R179: the golden sequence, and the one byte in which two of them differ. -/
def Obligations.GoldenSequenceDiffersInOneByte : Prop :=
  ∀ (s t s' t' : State) (r q : Rotation) (o p : ColorOrder), s.par = t.par →
    exec (.init r o) s = .next s' → s'.err = .ok → exec (.init q p) t = .next t' → t'.err = .ok →
    wire (newEntries s s') = (slotCases s.par r o).flatMap (fun x => frameWire x.frame) ∧
    ∃ before after : Wire,
      before = ((slotCases s.par r o).take 13).flatMap (fun x => frameWire x.frame) ++
        [(.low, [s.par.cmd.orientation])] ∧
      wire (newEntries s s') = before ++ (.high, [orientationByte s.par.masks r o]) :: after ∧
      wire (newEntries t t') = before ++ (.high, [orientationByte s.par.masks q p]) :: after ∧
      ((r, o) ≠ (q, p) → orientationByte s.par.masks r o ≠ orientationByte s.par.masks q p)

/-- R159 to R168: slots 0 to 9 (frameRateA, frameRateB, frameRateC, inversionCtrl, powerCtrl1 to powerCtrl5, vcomLevel),
each a frame of constant data with no delay. -/
def Obligations.FrameRateToVcomSlotsComplete : Prop :=
  ∀ (s : State) (x : SlotCase), x ∈ slotCases s.par s.rot s.cord → x.number ≤ 9 →
    inProgress s = true → s.life = .resetDone → s.step.toNat = x.number →
    answersOk (frameCalls x.frame).length s = true →
    x.delay = 0 ∧
    exec x.instr s = .next { s with
      dc := if x.frame.data = [] then .low else .high
      xfers := s.xfers + (if x.frame.data = [] then 1 else 2)
      step := s.step + 1#5
      trace := s.trace ++ okEntries (frameCalls x.frame)
      env := s.env.drop (frameCalls x.frame).length }

/-- R169 to R172: slots 10 to 13 (gammaA, gammaB, pixelFormat, orientation), with no delay. -/
def Obligations.GammaToOrientationSlotsComplete : Prop :=
  ∀ (s : State) (x : SlotCase), x ∈ slotCases s.par s.rot s.cord → 10 ≤ x.number → x.number ≤ 13 →
    inProgress s = true → s.life = .resetDone → s.step.toNat = x.number →
    answersOk (frameCalls x.frame).length s = true →
    x.delay = 0 ∧
    (x.number ≤ 11 → x.frame.data.length = 16) ∧
    (x.number = 13 → x.frame.data = [orientationByte s.par.masks s.rot s.cord]) ∧
    exec x.instr s = .next { s with
      dc := if x.frame.data = [] then .low else .high
      xfers := s.xfers + (if x.frame.data = [] then 1 else 2)
      step := s.step + 1#5
      trace := s.trace ++ okEntries (frameCalls x.frame)
      env := s.env.drop (frameCalls x.frame).length }

/-- R173, R174: the pre-seed slots 14 and 15 (colRange and rowRange in an INITIALIZE), with the mirror. -/
def Obligations.PreseedSlotsComplete : Prop :=
  ∀ s : State, inProgress s = true → s.life = .resetDone → answersOk 4 s = true →
    (s.step = 14#5 →
      exec (.colRange s.par.preseed.xs s.par.preseed.xe) s = .next { s with
        win := { s.win with xs := s.par.preseed.xs, xe := s.par.preseed.xe }
        dc := .high
        xfers := s.xfers + 2
        step := 15#5
        trace := s.trace ++ okEntries
          [.gpioDc .low, .busXfer .low [s.par.cmd.colRange], .gpioDc .high,
           .busXfer .high (be16 s.par.preseed.xs ++ be16 s.par.preseed.xe)]
        env := s.env.drop 4 }) ∧
    (s.step = 15#5 →
      exec (.rowRange s.par.preseed.ys s.par.preseed.ye) s = .next { s with
        win := { s.win with ys := s.par.preseed.ys, ye := s.par.preseed.ye }
        winValid := true
        dc := .high
        xfers := s.xfers + 2
        step := 16#5
        trace := s.trace ++ okEntries
          [.gpioDc .low, .busXfer .low [s.par.cmd.rowRange], .gpioDc .high,
           .busXfer .high (be16 s.par.preseed.ys ++ be16 s.par.preseed.ye)]
        env := s.env.drop 4 })

/-- R175, R176: slots 16 and 17, a frame without data and then the settle delay. -/
def Obligations.SleepExitAndDisplayOnComplete : Prop :=
  ∀ s : State, inProgress s = true → s.life = .resetDone → answersOk 3 s = true →
    (s.step = 16#5 →
      120 ≤ s.par.delays.sleepExit ∧
      exec .sleepExit s = .next { s with
        dc := .low
        xfers := s.xfers + 1
        step := 17#5
        now := s.now + s.par.delays.sleepExit + (s.env.getD 2 (.ok 0)).overshoot
        trace := s.trace ++ okEntries
          [.gpioDc .low, .busXfer .low [s.par.cmd.sleepExit], .sleep s.par.delays.sleepExit]
        env := s.env.drop 3 }) ∧
    (s.step = 17#5 →
      120 ≤ s.par.delays.displayOn ∧
      exec .displayOn s = .next { s with
        dc := .low
        xfers := s.xfers + 1
        step := 18#5
        now := s.now + s.par.delays.displayOn + (s.env.getD 2 (.ok 0)).overshoot
        trace := s.trace ++ okEntries
          [.gpioDc .low, .busXfer .low [s.par.cmd.displayOn], .sleep s.par.delays.displayOn]
        env := s.env.drop 3 })

/-- R183 with R245: a slot whose n-th call (from 0) fails aborts the INITIALIZE that runs it: STEP stays at the slot and
WIN as it was. -/
def Obligations.SlotsAbortTheirInitialize : Prop :=
  ∀ (s : State) (x : SlotCase) (n : Nat), x ∈ slotCases s.par s.rot s.cord →
    inProgress s = true → s.life = .resetDone → s.step.toNat = x.number →
    n < x.calls.length → failsAfter n s = true →
    exec x.instr s = .next { s with
      dc := levelAfter s.dc (x.calls.take n)
      xfers := s.xfers + transfersIn (x.calls.take n)
      winValid := false
      life := .failed
      busy := false
      err := errorFor (s.xfers + transfersIn (x.calls.take n)) (failingCall x.calls n)
      now := s.now + elapsed (x.calls.take n) s.env
      trace := s.trace ++ traceToFailure x.calls n
      env := s.env.drop (n + 1) }

/-- R183: "A slot is not issuable alone: only INITIALIZE runs it, at STEP equal to its number." No frame runs with no
operation in progress, none with LIFE UNRESET or FAILED; in an INITIALIZE a slot runs at its own STEP only, MEM_WRITE
never, COL_RANGE and ROW_RANGE with the pre-seed operands only; in a SET_WINDOW only its three frames run. What R183 says
of slots is applied to SET_WINDOW's frames, whose order is not tracked, and BUSY and LIFE tell which operation is in
progress: the model's reading (DEDUCED: notes/assumptions/6.md). -/
def Obligations.FramesAreNotIssuableAlone : Prop :=
  (∀ (s : State) (i : Instr), idle s = true → isOperation i = false →
    exec i s = .refused .frameNotIssuableAlone) ∧
  (∀ (s : State) (x : SlotCase), x ∈ slotCases s.par s.rot s.cord → inProgress s = true → s.life = .resetDone →
    s.step.toNat ≠ x.number → exec x.instr s = .refused .frameNotIssuableAlone) ∧
  (∀ (s : State) (i : Instr), inProgress s = true → s.life = .unreset ∨ s.life = .failed → isOperation i = false →
    exec i s = .refused .frameNotIssuableAlone) ∧
  (∀ (s : State) (a b : Half), inProgress s = true → s.life = .resetDone →
    exec .memWrite s = .refused .frameNotIssuableAlone ∧
    (a ≠ s.par.preseed.xs ∨ b ≠ s.par.preseed.xe → exec (.colRange a b) s = .refused .frameNotIssuableAlone) ∧
    (a ≠ s.par.preseed.ys ∨ b ≠ s.par.preseed.ye → exec (.rowRange a b) s = .refused .frameNotIssuableAlone)) ∧
  (∀ (s : State) (i : Instr), inProgress s = true → s.life = .ready → isOperation i = false →
    (∀ a b, i ≠ .colRange a b) → (∀ a b, i ≠ .rowRange a b) → i ≠ .memWrite →
    exec i s = .refused .frameNotIssuableAlone)

/-- INITIALIZE is its 18 slots run in order from STEP = 0 and then LIFE <- READY (R155, R158, R181, R183). -/
def Obligations.InitializeIsItsSlotsInOrder : Prop :=
  ∀ (s : State) (rot : Rotation) (order : ColorOrder), idle s = true → s.life = .resetDone →
    exec (.init rot order) s =
      outThen
        (runFrames ((slotCases s.par rot order).map (·.instr))
          { s with busy := true, xfers := 0, rot := rot, cord := order, winValid := false, step := 0#5 })
        (fun t => if t.busy then .next { t with life := .ready, busy := false, err := .ok } else .next t)

/-! ### SEND -/

/-- R120, R121, R122, R127, R129: SEND run alone, when its calls answer `ok`. -/
def Obligations.SendCompletes : Prop :=
  ∀ (s : State) (cmd : Byte) (data : List Byte), idle s = true → s.life = .resetDone ∨ s.life = .ready →
    answersOk (if data = [] then 2 else 4) s = true →
    exec (.send cmd data) s = .next { s with
      winValid := false
      dc := if data = [] then .low else .high
      xfers := if data = [] then 1 else 2
      err := .ok
      trace := s.trace ++ okEntries
        (if data = [] then [.gpioDc .low, .busXfer .low [cmd]]
         else [.gpioDc .low, .busXfer .low [cmd], .gpioDc .high, .busXfer .high data])
      env := s.env.drop (if data = [] then 2 else 4) }

/-- R121 to R124: SEND run alone, when its n-th call (from 0) fails: nothing more is sent. -/
def Obligations.SendAborts : Prop :=
  ∀ (s : State) (cmd : Byte) (data : List Byte) (n : Nat), idle s = true → s.life = .resetDone ∨ s.life = .ready →
    n < (if data = [] then 2 else 4) → failsAfter n s = true →
    exec (.send cmd data) s = .next { s with
      winValid := false
      dc := if n = 0 then s.dc else if n = 3 then .high else .low
      xfers := if n ≤ 1 then 0 else 1
      err :=
        if n = 0 ∨ n = 2 then .sequenceError .gpioDc else if n = 1 then .busError 0 else .busError 1
      trace := s.trace ++ traceToFailure (frameCalls ⟨cmd, data⟩) n
      env := s.env.drop (n + 1) }

/-! ### SET_WINDOW and its frames -/

/-- R201, R202, R203: the three frames of a SET_WINDOW in progress. -/
def Obligations.WindowFramesComplete : Prop :=
  ∀ (s : State) (a b : Half), inProgress s = true → s.life = .ready →
    (a ≤ b → b.toNat < colExtent s.cfg s.rot → answersOk 4 s = true →
      exec (.colRange a b) s = .next { s with
        win := { s.win with xs := a, xe := b }
        dc := .high
        xfers := s.xfers + 2
        trace := s.trace ++ okEntries
          [.gpioDc .low, .busXfer .low [s.par.cmd.colRange], .gpioDc .high,
           .busXfer .high [hi8 a, lo8 a, hi8 b, lo8 b]]
        env := s.env.drop 4 }) ∧
    (a ≤ b → b.toNat < rowExtent s.cfg s.rot → answersOk 4 s = true →
      exec (.rowRange a b) s = .next { s with
        win := { s.win with ys := a, ye := b }
        dc := .high
        xfers := s.xfers + 2
        trace := s.trace ++ okEntries
          [.gpioDc .low, .busXfer .low [s.par.cmd.rowRange], .gpioDc .high,
           .busXfer .high [hi8 a, lo8 a, hi8 b, lo8 b]]
        env := s.env.drop 4 }) ∧
    (answersOk 2 s = true →
      exec .memWrite s = .next { s with
        dc := .low
        xfers := s.xfers + 1
        trace := s.trace ++ okEntries [.gpioDc .low, .busXfer .low [s.par.cmd.memWrite]]
        env := s.env.drop 2 })

/-- R201, R202, R203, R206: a frame of a SET_WINDOW whose n-th call (from 0) fails aborts it, with WIN not updated. -/
def Obligations.WindowFramesAbort : Prop :=
  ∀ (s : State) (i : Instr) (f : Frame) (n : Nat), inProgress s = true → s.life = .ready → i.wf s.cfg s.rot = true →
    (∃ a b, i = .colRange a b ∧ f = ⟨s.par.cmd.colRange, rangeData a b⟩) ∨
      (∃ a b, i = .rowRange a b ∧ f = ⟨s.par.cmd.rowRange, rangeData a b⟩) ∨
      (i = .memWrite ∧ f = ⟨s.par.cmd.memWrite, []⟩) →
    n < (frameCalls f).length → failsAfter n s = true →
    exec i s = .next { s with
      dc := levelAfter s.dc ((frameCalls f).take n)
      xfers := s.xfers + transfersIn ((frameCalls f).take n)
      winValid := false
      busy := false
      err := errorFor (s.xfers + transfersIn ((frameCalls f).take n)) (failingCall (frameCalls f) n)
      trace := s.trace ++ traceToFailure (frameCalls f) n
      env := s.env.drop (n + 1) }

/-- R200, R204: SET_WINDOW run alone, when its ten calls answer `ok`. -/
def Obligations.SetWindowCompletes : Prop :=
  ∀ (s : State) (w : Window), idle s = true → s.life = .ready → windowWf s.cfg s.rot w = true →
    answersOk 10 s = true →
    exec (.setWindow w) s = .next { s with
      win := w
      winValid := true
      dc := .low
      xfers := 5
      err := .ok
      trace := s.trace ++ okEntries
        [.gpioDc .low, .busXfer .low [s.par.cmd.colRange], .gpioDc .high,
         .busXfer .high [hi8 w.xs, lo8 w.xs, hi8 w.xe, lo8 w.xe],
         .gpioDc .low, .busXfer .low [s.par.cmd.rowRange], .gpioDc .high,
         .busXfer .high [hi8 w.ys, lo8 w.ys, hi8 w.ye, lo8 w.ye],
         .gpioDc .low, .busXfer .low [s.par.cmd.memWrite]]
      env := s.env.drop 10 }

/-- R200, R204, R206: SET_WINDOW run alone, when its n-th call (from 0) fails: the remaining frames are not sent. -/
def Obligations.SetWindowAborts : Prop :=
  ∀ (s : State) (w : Window) (n : Nat), idle s = true → s.life = .ready → windowWf s.cfg s.rot w = true →
    n < 10 → failsAfter n s = true →
    exec (.setWindow w) s = .next { s with
      win := if n < 4 then s.win else if n < 8 then { s.win with xs := w.xs, xe := w.xe } else w
      winValid := false
      dc := levelAfter s.dc ((setWindowCalls s.par.cmd w).take n)
      xfers := n / 2
      err := if n % 2 = 0 then .sequenceError .gpioDc else .busError (n / 2)
      trace := s.trace ++ traceToFailure (setWindowCalls s.par.cmd w) n
      env := s.env.drop (n + 1) }

/-- SET_WINDOW is COL_RANGE, ROW_RANGE and MEM_WRITE in this order, WIN_VALID cleared before and set between the last two
(R200, R204). -/
def Obligations.SetWindowIsItsFramesInOrder : Prop :=
  ∀ (s : State) (w : Window), idle s = true → s.life = .ready → windowWf s.cfg s.rot w = true →
    exec (.setWindow w) s =
      outThen
        (runFrames [.colRange w.xs w.xe, .rowRange w.ys w.ye] { s with busy := true, xfers := 0, winValid := false })
        (fun t =>
          if t.busy then
            outThen (exec .memWrite { t with winValid := true })
              (fun u => if u.busy then .next { u with busy := false, err := .ok } else .next u)
          else .next t)

/-! ### FLUSH -/

/-- R218: the chunks of a pixel payload. -/
def Obligations.ChunksAreGreedy : Prop :=
  ∀ bs : List Byte, bs ≠ [] →
    chunks none bs = [bs] ∧
    ∀ m : Nat, 1 ≤ m →
      (chunks (some m) bs).flatten = bs ∧
      (chunks (some m) bs).length = (bs.length + m - 1) / m ∧
      (∀ c ∈ (chunks (some m) bs).dropLast, c.length = m) ∧
      (∃ last, (chunks (some m) bs).getLast? = some last ∧
        last.length = bs.length - m * ((chunks (some m) bs).length - 1) ∧ 1 ≤ last.length ∧ last.length ≤ m)

/-- R64, R216, R217: SERIALIZE reads each pixel of the window once, in row-major order, none outside FB space, and appends
its two bytes. -/
def Obligations.SerializeReadsRowMajor : Prop :=
  ∀ (s : State) (w : Window), windowWf s.cfg s.rot w = true → s.pix = 0 → s.txbuf = [] →
    (windowAddresses s.cfg s.rot w).length = windowWidth w * windowHeight w ∧
    (windowAddresses s.cfg s.rot w).Nodup ∧
    (∀ a ∈ windowAddresses s.cfg s.rot w, a < frameBufferPixels s.cfg s.rot) ∧
    (∀ k < windowWidth w * windowHeight w,
      (windowAddresses s.cfg s.rot w)[k]? =
        some ((w.ys.toNat + k / windowWidth w) * colExtent s.cfg s.rot + (w.xs.toNat + k % windowWidth w)) ∧
      (flushPayload s w)[2 * k]? = some (hi8 (flushPixel s w k)) ∧
      (flushPayload s w)[2 * k + 1]? = some (lo8 (flushPixel s w k))) ∧
    (flushPayload s w).length = 2 * (windowWidth w * windowHeight w) ∧
    runActions (serializeActions s.cfg s.rot w) s =
      .through { s with txbuf := flushPayload s w, pix := windowWidth w * windowHeight w }

/-- R215, R217, R218: FLUSH when its calls answer `ok`. The FrameBuffer has the size of R61, which is
R292's premise. -/
def Obligations.FlushCompletes : Prop :=
  ∀ (s : State) (w : Window), idle s = true → s.life = .ready → windowWf s.cfg s.rot w = true →
    s.fbPixels = frameBufferPixels s.cfg s.rot → answersOk (flushCalls s w).length s = true →
    exec (.flush w) s = .next { s with
      win := w
      winValid := true
      pix := windowWidth w * windowHeight w
      txbuf := []
      dc := .high
      xfers := 5 + (chunks s.cfg.maxXfer (flushPayload s w)).length
      err := .ok
      trace := s.trace ++ okEntries (flushCalls s w)
      env := s.env.drop (flushCalls s w).length }

/-- R223, Table 60-B: FLUSH when its n-th call (from 0) fails. The FrameBuffer has the size of R61, which is R292's premise. -/
def Obligations.FlushAborts : Prop :=
  ∀ (s : State) (w : Window) (n : Nat), idle s = true → s.life = .ready → windowWf s.cfg s.rot w = true →
    s.fbPixels = frameBufferPixels s.cfg s.rot → n < (flushCalls s w).length → failsAfter n s = true →
    exec (.flush w) s = .next { s with
      win := if n < 4 then s.win else if n < 8 then { s.win with xs := w.xs, xe := w.xe } else w
      winValid := false
      pix := if n < 10 then 0 else windowWidth w * windowHeight w
      txbuf := []
      dc := levelAfter s.dc ((flushCalls s w).take n)
      xfers := transfersIn ((flushCalls s w).take n)
      err := errorFor (transfersIn ((flushCalls s w).take n)) (failingCall (flushCalls s w) n)
      trace := s.trace ++ traceToFailure (flushCalls s w) n
      env := s.env.drop (n + 1) }

/-- R225: the counts of a successful FLUSH. -/
def Obligations.FlushCounts : Prop :=
  ∀ (s t : State) (w : Window), exec (.flush w) s = .next t → t.err = .ok →
    countDcDrives (newEntries s t) = 6 ∧
    countSleeps (newEntries s t) = 0 ∧
    (wireBytes (wire (newEntries s t))).length = 3 + 8 + 2 * (windowWidth w * windowHeight w) ∧
    (windowAddresses s.cfg s.rot w).length = windowWidth w * windowHeight w ∧
    (s.cfg.maxXfer = none → countXfers (newEntries s t) = 6) ∧
    (∀ m, s.cfg.maxXfer = some m →
      countXfers (newEntries s t) = 5 + (2 * (windowWidth w * windowHeight w) + m - 1) / m)

/-- R224, R73, R106: FLUSH_FULL sends the visible window, whose coordinates are R73's under each rotation: 128 × 128 pixels. -/
def Obligations.FlushFullSendsTheVisibleWindow : Prop :=
  ∀ (s t : State) (vis : Window), vis = visibleWindow s.cfg s.rot →
    (cfgWf s.cfg = true →
      windowWf s.cfg s.rot vis = true ∧
      (s.rot = .deg0 ∨ s.rot = .deg180 →
        vis.xs.toNat = s.cfg.xOffset.toNat ∧ vis.xe.toNat = s.cfg.xOffset.toNat + s.cfg.nativeW.toNat - 1 ∧
        vis.ys.toNat = s.cfg.yOffset.toNat ∧ vis.ye.toNat = s.cfg.yOffset.toNat + s.cfg.nativeH.toNat - 1) ∧
      (s.rot = .deg90 ∨ s.rot = .deg270 →
        vis.xs.toNat = s.cfg.yOffset.toNat ∧ vis.xe.toNat = s.cfg.yOffset.toNat + s.cfg.nativeH.toNat - 1 ∧
        vis.ys.toNat = s.cfg.xOffset.toNat ∧ vis.ye.toNat = s.cfg.xOffset.toNat + s.cfg.nativeW.toNat - 1)) ∧
    (flushFull s = exec (.flush vis) s) ∧
    (flushFull s = .next t → t.err = .ok →
      t.win = vis ∧
      (wire (newEntries s t)).take 5 =
        [(.low, [s.par.cmd.colRange]), (.high, rangeData vis.xs vis.xe),
         (.low, [s.par.cmd.rowRange]), (.high, rangeData vis.ys vis.ye), (.low, [s.par.cmd.memWrite])] ∧
      t.pix = 16384 ∧ (wireBytes (wire (newEntries s t))).length = 11 + 32768 ∧
      (s.cfg.maxXfer = none → t.xfers = 6) ∧
      (∀ m, s.cfg.maxXfer = some m → t.xfers = 5 + (32768 + m - 1) / m))

/-- R220, R222: the trace of a successful FLUSH depends on the window, the pixel values, the command bytes and MAX_XFER
only: not on the rotation, and a second FLUSH repeats the first. -/
def Obligations.FlushTraceDependsOnPixelsOnly : Prop :=
  (∀ (s t s' t' : State) (w : Window), s.par.cmd = t.par.cmd → s.cfg.maxXfer = t.cfg.maxXfer →
    (∀ k < windowWidth w * windowHeight w, flushPixel s w k = flushPixel t w k) →
    exec (.flush w) s = .next s' → s'.err = .ok → exec (.flush w) t = .next t' → t'.err = .ok →
    newEntries s s' = newEntries t t') ∧
  (∀ (s t u : State) (w : Window), exec (.flush w) s = .next t → t.err = .ok →
    exec (.flush w) t = .next u → u.err = .ok → newEntries s t = newEntries t u)

/-- R86: chunking changes the wire, exactly where the payload is longer than the limit, and not what the controller
receives. -/
def Obligations.ChunkingIsControllerEquivalent : Prop :=
  ∀ (w chunked : Wire) (bs : List Byte) (m : Nat), bs ≠ [] → 1 ≤ m →
    chunked = w ++ (chunks (some m) bs).map (fun c => (Level.high, c)) →
    controllerEquivalent chunked (w ++ [(Level.high, bs)]) ∧
    (m < bs.length ↔ chunked ≠ w ++ [(Level.high, bs)])

/-- R80 to R84: after a successful FLUSH, whatever the controller held before, its memory inside the window equals the
FrameBuffer's; and the FLUSH causes none of the cases of R84. SINK's bookkeeping is the model's
(notes/assumptions/14.md). -/
def Obligations.FlushFillsTheSink : Prop :=
  ∀ (s t : State) (w : Window) (k k' : Sink), exec (.flush w) s = .next t → t.err = .ok →
    k' = k.feedAll s.par.cmd (colExtent s.cfg s.rot) (rowExtent s.cfg s.rot) (newEntries s t) →
    (∀ c r, w.xs.toNat ≤ c → c ≤ w.xe.toNat → w.ys.toNat ≤ r → r ≤ w.ye.toNat →
      gramAt k'.gram c r = some (readPixel s.fb (r * colExtent s.cfg s.rot + c))) ∧
    (k.known = true → (k.writing && !k.complete) = false →
      k'.known = true ∧
      (∀ c r, ¬(w.xs.toNat ≤ c ∧ c ≤ w.xe.toNat ∧ w.ys.toNat ≤ r ∧ r ≤ w.ye.toNat) →
        gramAt k'.gram c r = gramAt k.gram c r)) ∧
    (k'.writing && !k'.complete) = false

/-! ### Errors -/

/-- What an error leaves, for every instruction (R241, R244, R245, and R258, which the spec derives), and what a failed
transfer may have delivered (R125). A frame run in place leaves ERR on success and aborts its operation on failure: the
model's reading (DEDUCED: notes/assumptions/6.md, 16.md). -/
def Obligations.ErrorsArePrecise : Prop :=
  (∀ (s t : State) (i : Instr), exec i s = .next t →
    (∃ calls, t.trace = s.trace ++ okEntries calls ∧
      (t.err = .ok ∨ t.err = .sequenceError .order ∧ calls = [] ∨ isOperation i = false ∧ t.err = s.err)) ∨
    (∃ calls e, t.trace = s.trace ++ okEntries calls ++ [failedEntry e] ∧ t.err = errorFor t.xfers e ∧
      t.xfers = (if isOperation i then 0 else s.xfers) + transfersIn calls ∧
      t.busy = false ∧ t.winValid = false)) ∧
  (∀ (dc : Level) (bs received : List Byte),
    (mayHaveDelivered ⟨.busXfer dc bs, false⟩ received = true ↔ ∃ rest, bs = received ++ rest) ∧
    (mayHaveDelivered ⟨.busXfer dc bs, true⟩ received = true ↔ received = bs))

/-- R247, R106: from every LIFE, HW_RESET then INITIALIZE leads to READY; after a failed FLUSH the same FLUSH can be issued
again and then sends all of its sequence. -/
def Obligations.RecoveryReachesReady : Prop :=
  (∀ (s : State) (rot : Rotation) (order : ColorOrder), idle s = true →
    answersOk (5 + (initCalls s.par rot order).length) s = true →
    ∃ t, resetAndInit rot order s = .next t ∧ t.life = .ready ∧ t.err = .ok ∧ t.rot = rot ∧ t.cord = order ∧
      t.trace = s.trace ++ okEntries (hwResetCalls s.par.delays ++ initCalls s.par rot order)) ∧
  (∀ (s t : State) (w : Window), exec (.flush w) s = .next t → s.life = .ready → t.err ≠ .ok →
    answersOk (flushCalls s w).length t = true →
    ∃ u, exec (.flush w) t = .next u ∧ u.err = .ok ∧ u.winValid = true ∧
      u.trace = t.trace ++ okEntries (flushCalls s w))

/-- A fault happens only where a call is never answered (R283, R296; notes/assumptions/10.md). -/
def Obligations.OnlyAMissingAnswerFaults : Prop :=
  ∀ (s : State) (i : Instr) (r : Fault), exec i s = .fault r → r = .environmentHangs ∧ everyCallAnswered s = false

/-- R69, R63, R243: the window check, which comes before admission. Where ROT is unspecified or stale (outside READY) a
window is refused only when no rotation makes it well-formed (DEDUCED: notes/assumptions/7.md). A COL_RANGE or ROW_RANGE
of a SET_WINDOW in progress is checked on its axis (notes/assumptions/6.md). -/
def Obligations.IllFormedWindowIsRefused : Prop :=
  (∀ (g : Cfg) (w : Window),
    (windowWf g .deg0 w = true ↔ w.xs ≤ w.xe ∧ w.xe < g.virtW ∧ w.ys ≤ w.ye ∧ w.ye < g.virtH) ∧
    (windowWf g .deg180 w = true ↔ w.xs ≤ w.xe ∧ w.xe < g.virtW ∧ w.ys ≤ w.ye ∧ w.ye < g.virtH) ∧
    (windowWf g .deg90 w = true ↔ w.xs ≤ w.xe ∧ w.xe < g.virtH ∧ w.ys ≤ w.ye ∧ w.ye < g.virtW) ∧
    (windowWf g .deg270 w = true ↔ w.xs ≤ w.xe ∧ w.xe < g.virtH ∧ w.ys ≤ w.ye ∧ w.ye < g.virtW)) ∧
  (∀ (s : State) (w : Window),
    (s.life = .ready → windowOk s w = windowWf s.cfg s.rot w) ∧
    (s.life ≠ .ready → (windowOk s w = true ↔ ∃ rot, windowWf s.cfg rot w = true)) ∧
    (idle s = true → windowOk s w = false →
      exec (.flush w) s = .refused .illFormedWindow ∧ exec (.setWindow w) s = .refused .illFormedWindow)) ∧
  (∀ (s : State) (a b : Half), inProgress s = true → s.life = .ready →
    (¬(a ≤ b ∧ b.toNat < colExtent s.cfg s.rot) → exec (.colRange a b) s = .refused .illFormedWindow) ∧
    (¬(a ≤ b ∧ b.toNat < rowExtent s.cfg s.rot) → exec (.rowRange a b) s = .refused .illFormedWindow))

/-- With an operation in progress, the host's operations (R289) and a detach (R293) have no meaning. That every FrameBuffer
write or binding is refused too is the model's choice, where R77 forbids only the pixels of a FLUSH's window during that
FLUSH (DEDUCED: notes/assumptions/9.md); so is the refusal of an attach (DEDUCED: notes/assumptions/13.md). -/
def Obligations.BusyHostIsRefused : Prop :=
  ∀ (s : State) (i : Instr) (a n : Nat) (v : Half) (cfg : Cfg) (par : Params), inProgress s = true →
    (isOperation i = true → exec i s = .refused .busy) ∧
    serve (.setPixel a v) s = .refused .busy ∧ serve (.bindFrameBuffer n) s = .refused .busy ∧
    serve (.attach cfg par) s = .refused .busy ∧ serve .detach s = .refused .busy

/-- R284, Table 00-A: ill-formed parameters give the whole PanelHandle no meaning; exactly which sets are well-formed. That
NATIVE is 128 × 128 in each of them, payloads other than gamma have any length up to 16 and the pre-seed is well-formed
under every rotation is the model's reading (DEDUCED: notes/assumptions/11.md). -/
def Obligations.IllFormedParametersAreRefused : Prop :=
  (∀ (s : State) (i : Instr), s.attached = true → parametersWf s.cfg s.par = false →
    exec i s = .refused .illFormedParameters) ∧
  (∀ (s : State) (cfg : Cfg) (par : Params), s.busy = false → parametersWf cfg par = false →
    serve (.attach cfg par) s = .refused .illFormedParameters) ∧
  (∀ (cfg : Cfg) (par : Params), parametersWf cfg par = true ↔
    cfg.nativeW = 128#16 ∧ cfg.nativeH = 128#16 ∧
    1 ≤ par.delays.rstAssert ∧ 10 ≤ par.delays.rstHold ∧ 120 ≤ par.delays.rstSettle ∧
    120 ≤ par.delays.sleepExit ∧ 120 ≤ par.delays.displayOn ∧
    (∀ k l : FrameKind, cmdOf par.cmd k = cmdOf par.cmd l → k = l) ∧
    (∀ m ∈ [par.masks.mx, par.masks.my, par.masks.mv, par.masks.rgb], ∃ b < 8, m = 1#8 <<< b) ∧
    [par.masks.mx, par.masks.my, par.masks.mv, par.masks.rgb].Nodup ∧
    par.payload.gammaA.length = 16 ∧ par.payload.gammaB.length = 16 ∧
    (∀ d ∈ allPayloads par.payload, d.length ≤ 16) ∧
    (∀ m, cfg.maxXfer = some m → 16 ≤ m) ∧
    cfg.xOffset.toNat + cfg.nativeW.toNat ≤ cfg.virtW.toNat ∧
    cfg.yOffset.toNat + cfg.nativeH.toNat ≤ cfg.virtH.toNat ∧
    (∀ rot, windowWf cfg rot par.preseed = true))

/-! ### The whole machine -/

/-- R280, R293: what creating and destroying a PanelHandle does. The values of the registers whose reset value the spec
leaves unspecified (ROT, CORD, WIN, DC, RST) are left out here. -/
def Obligations.AttachAndDetach : Prop :=
  (∀ (s : State) (cfg : Cfg) (par : Params) (rest : List Request), s.requests = .attach cfg par :: rest →
    s.busy = false → parametersWf cfg par = true →
    ∃ t, step s = .next t ∧ t.cfg = cfg ∧ t.par = par ∧ t.winValid = false ∧ t.step = 0#5 ∧ t.pix = 0 ∧ t.txbuf = [] ∧
      t.xfers = 0 ∧ t.life = .unreset ∧ t.err = .ok ∧ t.busy = false ∧ t.now = 0 ∧ t.trace = [] ∧ t.attached = true ∧
      t.fb = s.fb ∧ t.fbPixels = s.fbPixels ∧ t.env = s.env ∧ t.requests = rest) ∧
  (∀ (s : State) (rest : List Request), s.requests = .detach :: rest → s.busy = false → s.attached = true →
    step s = .next { s with attached := false, requests := rest }) ∧
  (∀ (s : State) (i : Instr), s.attached = false → exec i s = .refused .noPanelHandle)

/-- R61, R62: the host's write of one FrameBuffer pixel, in the canonical form of the model (notes/assumptions/8.md). -/
def Obligations.HostWriteChangesOnePixel : Prop :=
  ∀ (s : State) (a : Nat) (v : Half) (rest : List Request), s.requests = .setPixel a v :: rest → s.busy = false →
    a < s.fbPixels →
    step s = .next { s with fb := writePixel s.fb a v, requests := rest } ∧
    (∀ b, readPixel (writePixel s.fb a v) b = if b = a then v else readPixel s.fb b) ∧
    (Memory.wf s.fb = true → Memory.wf (writePixel s.fb a v) = true)

/-- R21, R64, R36, R35: no instruction writes CFG, the parameters or the FrameBuffer; TRACE only grows and NOW never goes
back. -/
def Obligations.NoInstructionWritesConfigurationOrFrameBuffer : Prop :=
  ∀ (s t : State) (i : Instr), exec i s = .next t →
    t.cfg = s.cfg ∧ t.par = s.par ∧ t.fb = s.fb ∧ t.fbPixels = s.fbPixels ∧ t.attached = s.attached ∧
    t.requests = s.requests ∧ (∃ es, t.trace = s.trace ++ es) ∧ (∃ d, t.now = s.now + d) ∧
    (∃ n, t.env = s.env.drop n)

/-- R180, R22, R23: ROT and CORD are written by an admitted INITIALIZE only, from its operands. -/
def Obligations.OnlyInitializeWritesOrientation : Prop :=
  ∀ (s t : State) (i : Instr), exec i s = .next t →
    (∀ rot order, i = .init rot order → s.life = .resetDone → t.rot = rot ∧ t.cord = order) ∧
    ((∀ rot order, i ≠ .init rot order) ∨ s.life ≠ .resetDone → t.rot = s.rot ∧ t.cord = s.cord)

/-- R43: how each host operation advances STEP and PIX. -/
def Obligations.ProgramCountersAdvanceAsStated : Prop :=
  ∀ (s t : State) (i : Instr), exec i s = .next t → isOperation i = true →
    (∀ rot order, i = .init rot order → t.pix = s.pix ∧
      (s.life = .resetDone → t.step.toNat ≤ 18 ∧ (t.err = .ok → t.step = 18#5))) ∧
    (∀ w, i = .flush w → t.step = s.step ∧
      (s.life = .ready → t.pix ≤ windowWidth w * windowHeight w ∧
        (t.err = .ok → t.pix = windowWidth w * windowHeight w))) ∧
    ((∀ rot order, i ≠ .init rot order) → (∀ w, i ≠ .flush w) → t.step = s.step ∧ t.pix = s.pix)

/-- R102: the exposed operations put no command byte on the wire but the 19 of Table 30-B. -/
def Obligations.OnlyTableCommandBytesAreSent : Prop :=
  ∀ (s t : State) (i : Instr), exec i s = .next t →
    i = .hwReset ∨ (∃ rot order, i = .init rot order) ∨ (∃ w, i = .flush w) →
    ∀ bs, (Level.low, bs) ∈ wire (newEntries s t) → ∃ k : FrameKind, bs = [cmdOf s.par.cmd k]

/-- R22 to R24, R29, R30, R40, R146, R178: the registers whose reset value is unspecified (ROT, CORD, WIN, DC, RST) are never
read before they are written. Two states that differ in DC, RST, CORD and WIN only, and outside READY in ROT too, run
every host operation to the same end: what differs after it is among those five. -/
def Obligations.UnspecifiedRegistersAreNeverRead : Prop :=
  ∀ (s t : State) (i : Instr) (dc : Level) (rst : ResetLevel) (cord : ColorOrder) (win : Window) (rot : Rotation),
    isOperation i = true →
    t = { s with dc := dc, rst := rst, cord := cord, win := win, rot := if s.life = .ready then s.rot else rot } →
    (∀ s', exec i s = .next s' →
      ∃ t', exec i t = .next t' ∧
        { t' with dc := s'.dc, rst := s'.rst, cord := s'.cord, win := s'.win, rot := s'.rot } = s' ∧
        (s'.life = .ready → t'.rot = s'.rot)) ∧
    (∀ f, exec i s = .fault f → exec i t = .fault f) ∧
    (∀ r, exec i s = .refused r → exec i t = .refused r)

/-- R26, R28, R30, Table 10-B, R284 and the canonical form of FB space: every step keeps them. -/
def Obligations.StepKeepsRegistersLegal : Prop :=
  ∀ s t : State, Legal s → step s = .next t → Legal t

/-- R94: every step keeps the framing of the wire. -/
def Obligations.StepKeepsFraming : Prop :=
  ∀ s t : State, framed s.trace = true → step s = .next t → framed t.trace = true

/-- R145: every step keeps it that no byte is sent before the settle wait of the last HW_RESET is over. -/
def Obligations.StepKeepsTransfersSettled : Prop :=
  ∀ s t : State, Settled s → step s = .next t → Settled t

/-- R295, R17, R35: every step keeps the bounds on requested sleep. -/
def Obligations.StepKeepsSleepBounds : Prop :=
  ∀ s t : State, Timed s → step s = .next t → Timed t

/-- R25, R204: every step from an idle handle keeps the mirror: WIN_VALID = 1 implies that WIN is the window the wire last
programmed. -/
def Obligations.StepKeepsTheWindowMirror : Prop :=
  ∀ s t : State, s.busy = false → MirrorHolds s → step s = .next t → MirrorHolds t ∧ t.busy = false

/-- The reset state meets every invariant. -/
def Obligations.ResetIsLegal : Prop :=
  Legal State.reset ∧ framed State.reset.trace = true ∧ Settled State.reset ∧ Timed State.reset ∧
    MirrorHolds State.reset ∧ State.reset.busy = false

/-- Every state a run can reach, with any host and any environment, meets every invariant, and the host never finds
BUSY = 1 (R33). -/
def Obligations.ReachableStatesAreLegal : Prop :=
  ∀ s : State, Reachable s →
    s.busy = false ∧ Legal s ∧ framed s.trace = true ∧ Settled s ∧ Timed s ∧ MirrorHolds s

/-- An admitted FLUSH whose FrameBuffer has not COL_EXTENT · ROW_EXTENT pixels (R61), fewer or more, is refused: R292 and
D21 take the size as a premise, and D21 refuses a violation (DEDUCED where U12 says "too small for the window":
notes/assumptions/17.md). That it is tested of an admitted FLUSH only is the model's reading (DEDUCED:
notes/assumptions/12.md), as is the window check outside READY (DEDUCED: notes/assumptions/7.md). -/
def Obligations.WrongFrameBufferSizeIsRefused : Prop :=
  ∀ (s : State) (w : Window), idle s = true → windowOk s w = true → s.fbPixels ≠ frameBufferPixels s.cfg s.rot →
    (s.life = .ready → exec (.flush w) s = .refused .frameBufferSize) ∧
    (s.life ≠ .ready → exec (.flush w) s = .next { s with err := .sequenceError .order })
end

