-- ==== Sys2Proof/Laws/Encoding.lean ====
section
/-! SUPPORT. The byte-order helpers undo one another, and a command byte names one frame kind. -/

namespace Sys2Proof

theorem ofBe16_be16 (v : Half) : ofBe16 (hi8 v) (lo8 v) = v := by
  apply BitVec.eq_of_toNat_eq
  simp only [ofBe16, hi8, lo8, BitVec.toNat_append, BitVec.extractLsb'_toNat, Nat.shiftRight_zero]
  rw [← Nat.shiftLeft_add_eq_or_of_lt (by omega)]
  simp [Nat.shiftRight_eq_div_pow, Nat.shiftLeft_eq]
  have := v.isLt
  omega

theorem hi8_ofBe16 (a b : Byte) : hi8 (ofBe16 a b) = a := by
  have ha := a.isLt
  have hb := b.isLt
  apply BitVec.eq_of_toNat_eq
  simp only [ofBe16, hi8, BitVec.toNat_append, BitVec.extractLsb'_toNat]
  rw [← Nat.shiftLeft_add_eq_or_of_lt (by omega)]
  simp [Nat.shiftRight_eq_div_pow, Nat.shiftLeft_eq]
  omega

theorem lo8_ofBe16 (a b : Byte) : lo8 (ofBe16 a b) = b := by
  have ha := a.isLt
  have hb := b.isLt
  apply BitVec.eq_of_toNat_eq
  simp only [ofBe16, lo8, BitVec.toNat_append, BitVec.extractLsb'_toNat]
  rw [← Nat.shiftLeft_add_eq_or_of_lt (by omega)]
  simp [Nat.shiftLeft_eq]
  omega

theorem be16_ofBe16 (a b : Byte) : be16 (ofBe16 a b) = [a, b] := by
  rw [be16, hi8_ofBe16, lo8_ofBe16]

theorem mem_allKinds (k : FrameKind) : k ∈ allKinds := by cases k <;> decide

/-- The 19 command bytes are pairwise different (R98). -/
theorem cmdOf_injective {c : CmdBytes} (h : cmdWf c = true) {k l : FrameKind} (hkl : cmdOf c k = cmdOf c l) : k = l := by
  simp only [cmdWf, decide_eq_true_eq] at h
  exact List.inj_on_of_nodup_map h (mem_allKinds k) (mem_allKinds l) hkl

theorem kindOfCmd_some {c : CmdBytes} {b : Byte} {k : FrameKind} (h : kindOfCmd c b = some k) : cmdOf c k = b := by
  have := List.find?_some h
  simpa using this

/-- A kind is recognised from its command byte alone (R98). -/
theorem kindOfCmd_cmdOf {c : CmdBytes} (h : cmdWf c = true) (k : FrameKind) : kindOfCmd c (cmdOf c k) = some k := by
  cases hf : kindOfCmd c (cmdOf c k) with
  | none =>
    rw [kindOfCmd, List.find?_eq_none] at hf
    have := hf k (mem_allKinds k)
    simp at this
  | some l => rw [cmdOf_injective h (kindOfCmd_some hf)]

end Sys2Proof
end

