-- ==== Sys2Proof/Laws/State.lean ====
section
/-! SUPPORT. One lemma per field per register update of Machine/Ops.lean: what the update writes, and that it leaves
every other field alone. -/

namespace Sys2Proof.Machine

open Sys2Proof

section

variable (s : State)

@[simp] theorem setRst_cfg (l : ResetLevel) : (s.setRst l).cfg = s.cfg := rfl
@[simp] theorem setRst_par (l : ResetLevel) : (s.setRst l).par = s.par := rfl
@[simp] theorem setRst_rot (l : ResetLevel) : (s.setRst l).rot = s.rot := rfl
@[simp] theorem setRst_cord (l : ResetLevel) : (s.setRst l).cord = s.cord := rfl
@[simp] theorem setRst_win (l : ResetLevel) : (s.setRst l).win = s.win := rfl
@[simp] theorem setRst_winValid (l : ResetLevel) : (s.setRst l).winValid = s.winValid := rfl
@[simp] theorem setRst_step (l : ResetLevel) : (s.setRst l).step = s.step := rfl
@[simp] theorem setRst_pix (l : ResetLevel) : (s.setRst l).pix = s.pix := rfl
@[simp] theorem setRst_txbuf (l : ResetLevel) : (s.setRst l).txbuf = s.txbuf := rfl
@[simp] theorem setRst_xfers (l : ResetLevel) : (s.setRst l).xfers = s.xfers := rfl
@[simp] theorem setRst_dc (l : ResetLevel) : (s.setRst l).dc = s.dc := rfl
@[simp] theorem setRst_rst (l : ResetLevel) : (s.setRst l).rst = l := rfl
@[simp] theorem setRst_life (l : ResetLevel) : (s.setRst l).life = s.life := rfl
@[simp] theorem setRst_err (l : ResetLevel) : (s.setRst l).err = s.err := rfl
@[simp] theorem setRst_busy (l : ResetLevel) : (s.setRst l).busy = s.busy := rfl
@[simp] theorem setRst_now (l : ResetLevel) : (s.setRst l).now = s.now := rfl
@[simp] theorem setRst_trace (l : ResetLevel) : (s.setRst l).trace = s.trace := rfl
@[simp] theorem setRst_fb (l : ResetLevel) : (s.setRst l).fb = s.fb := rfl
@[simp] theorem setRst_fbPixels (l : ResetLevel) : (s.setRst l).fbPixels = s.fbPixels := rfl
@[simp] theorem setRst_attached (l : ResetLevel) : (s.setRst l).attached = s.attached := rfl
@[simp] theorem setRst_env (l : ResetLevel) : (s.setRst l).env = s.env := rfl
@[simp] theorem setRst_requests (l : ResetLevel) : (s.setRst l).requests = s.requests := rfl

@[simp] theorem setDc_cfg (l : Level) : (s.setDc l).cfg = s.cfg := rfl
@[simp] theorem setDc_par (l : Level) : (s.setDc l).par = s.par := rfl
@[simp] theorem setDc_rot (l : Level) : (s.setDc l).rot = s.rot := rfl
@[simp] theorem setDc_cord (l : Level) : (s.setDc l).cord = s.cord := rfl
@[simp] theorem setDc_win (l : Level) : (s.setDc l).win = s.win := rfl
@[simp] theorem setDc_winValid (l : Level) : (s.setDc l).winValid = s.winValid := rfl
@[simp] theorem setDc_step (l : Level) : (s.setDc l).step = s.step := rfl
@[simp] theorem setDc_pix (l : Level) : (s.setDc l).pix = s.pix := rfl
@[simp] theorem setDc_txbuf (l : Level) : (s.setDc l).txbuf = s.txbuf := rfl
@[simp] theorem setDc_xfers (l : Level) : (s.setDc l).xfers = s.xfers := rfl
@[simp] theorem setDc_dc (l : Level) : (s.setDc l).dc = l := rfl
@[simp] theorem setDc_rst (l : Level) : (s.setDc l).rst = s.rst := rfl
@[simp] theorem setDc_life (l : Level) : (s.setDc l).life = s.life := rfl
@[simp] theorem setDc_err (l : Level) : (s.setDc l).err = s.err := rfl
@[simp] theorem setDc_busy (l : Level) : (s.setDc l).busy = s.busy := rfl
@[simp] theorem setDc_now (l : Level) : (s.setDc l).now = s.now := rfl
@[simp] theorem setDc_trace (l : Level) : (s.setDc l).trace = s.trace := rfl
@[simp] theorem setDc_fb (l : Level) : (s.setDc l).fb = s.fb := rfl
@[simp] theorem setDc_fbPixels (l : Level) : (s.setDc l).fbPixels = s.fbPixels := rfl
@[simp] theorem setDc_attached (l : Level) : (s.setDc l).attached = s.attached := rfl
@[simp] theorem setDc_env (l : Level) : (s.setDc l).env = s.env := rfl
@[simp] theorem setDc_requests (l : Level) : (s.setDc l).requests = s.requests := rfl

@[simp] theorem countXfer_cfg : s.countXfer.cfg = s.cfg := rfl
@[simp] theorem countXfer_par : s.countXfer.par = s.par := rfl
@[simp] theorem countXfer_rot : s.countXfer.rot = s.rot := rfl
@[simp] theorem countXfer_cord : s.countXfer.cord = s.cord := rfl
@[simp] theorem countXfer_win : s.countXfer.win = s.win := rfl
@[simp] theorem countXfer_winValid : s.countXfer.winValid = s.winValid := rfl
@[simp] theorem countXfer_step : s.countXfer.step = s.step := rfl
@[simp] theorem countXfer_pix : s.countXfer.pix = s.pix := rfl
@[simp] theorem countXfer_txbuf : s.countXfer.txbuf = s.txbuf := rfl
@[simp] theorem countXfer_xfers : s.countXfer.xfers = s.xfers + 1 := rfl
@[simp] theorem countXfer_dc : s.countXfer.dc = s.dc := rfl
@[simp] theorem countXfer_rst : s.countXfer.rst = s.rst := rfl
@[simp] theorem countXfer_life : s.countXfer.life = s.life := rfl
@[simp] theorem countXfer_err : s.countXfer.err = s.err := rfl
@[simp] theorem countXfer_busy : s.countXfer.busy = s.busy := rfl
@[simp] theorem countXfer_now : s.countXfer.now = s.now := rfl
@[simp] theorem countXfer_trace : s.countXfer.trace = s.trace := rfl
@[simp] theorem countXfer_fb : s.countXfer.fb = s.fb := rfl
@[simp] theorem countXfer_fbPixels : s.countXfer.fbPixels = s.fbPixels := rfl
@[simp] theorem countXfer_attached : s.countXfer.attached = s.attached := rfl
@[simp] theorem countXfer_env : s.countXfer.env = s.env := rfl
@[simp] theorem countXfer_requests : s.countXfer.requests = s.requests := rfl

@[simp] theorem advance_cfg (d : Nat) : (s.advance d).cfg = s.cfg := rfl
@[simp] theorem advance_par (d : Nat) : (s.advance d).par = s.par := rfl
@[simp] theorem advance_rot (d : Nat) : (s.advance d).rot = s.rot := rfl
@[simp] theorem advance_cord (d : Nat) : (s.advance d).cord = s.cord := rfl
@[simp] theorem advance_win (d : Nat) : (s.advance d).win = s.win := rfl
@[simp] theorem advance_winValid (d : Nat) : (s.advance d).winValid = s.winValid := rfl
@[simp] theorem advance_step (d : Nat) : (s.advance d).step = s.step := rfl
@[simp] theorem advance_pix (d : Nat) : (s.advance d).pix = s.pix := rfl
@[simp] theorem advance_txbuf (d : Nat) : (s.advance d).txbuf = s.txbuf := rfl
@[simp] theorem advance_xfers (d : Nat) : (s.advance d).xfers = s.xfers := rfl
@[simp] theorem advance_dc (d : Nat) : (s.advance d).dc = s.dc := rfl
@[simp] theorem advance_rst (d : Nat) : (s.advance d).rst = s.rst := rfl
@[simp] theorem advance_life (d : Nat) : (s.advance d).life = s.life := rfl
@[simp] theorem advance_err (d : Nat) : (s.advance d).err = s.err := rfl
@[simp] theorem advance_busy (d : Nat) : (s.advance d).busy = s.busy := rfl
@[simp] theorem advance_now (d : Nat) : (s.advance d).now = s.now + d := rfl
@[simp] theorem advance_trace (d : Nat) : (s.advance d).trace = s.trace := rfl
@[simp] theorem advance_fb (d : Nat) : (s.advance d).fb = s.fb := rfl
@[simp] theorem advance_fbPixels (d : Nat) : (s.advance d).fbPixels = s.fbPixels := rfl
@[simp] theorem advance_attached (d : Nat) : (s.advance d).attached = s.attached := rfl
@[simp] theorem advance_env (d : Nat) : (s.advance d).env = s.env := rfl
@[simp] theorem advance_requests (d : Nat) : (s.advance d).requests = s.requests := rfl

@[simp] theorem setCols_cfg (xs xe : Half) : (s.setCols xs xe).cfg = s.cfg := rfl
@[simp] theorem setCols_par (xs xe : Half) : (s.setCols xs xe).par = s.par := rfl
@[simp] theorem setCols_rot (xs xe : Half) : (s.setCols xs xe).rot = s.rot := rfl
@[simp] theorem setCols_cord (xs xe : Half) : (s.setCols xs xe).cord = s.cord := rfl
@[simp] theorem setCols_win (xs xe : Half) : (s.setCols xs xe).win = { s.win with xs := xs, xe := xe } := rfl
@[simp] theorem setCols_winValid (xs xe : Half) : (s.setCols xs xe).winValid = s.winValid := rfl
@[simp] theorem setCols_step (xs xe : Half) : (s.setCols xs xe).step = s.step := rfl
@[simp] theorem setCols_pix (xs xe : Half) : (s.setCols xs xe).pix = s.pix := rfl
@[simp] theorem setCols_txbuf (xs xe : Half) : (s.setCols xs xe).txbuf = s.txbuf := rfl
@[simp] theorem setCols_xfers (xs xe : Half) : (s.setCols xs xe).xfers = s.xfers := rfl
@[simp] theorem setCols_dc (xs xe : Half) : (s.setCols xs xe).dc = s.dc := rfl
@[simp] theorem setCols_rst (xs xe : Half) : (s.setCols xs xe).rst = s.rst := rfl
@[simp] theorem setCols_life (xs xe : Half) : (s.setCols xs xe).life = s.life := rfl
@[simp] theorem setCols_err (xs xe : Half) : (s.setCols xs xe).err = s.err := rfl
@[simp] theorem setCols_busy (xs xe : Half) : (s.setCols xs xe).busy = s.busy := rfl
@[simp] theorem setCols_now (xs xe : Half) : (s.setCols xs xe).now = s.now := rfl
@[simp] theorem setCols_trace (xs xe : Half) : (s.setCols xs xe).trace = s.trace := rfl
@[simp] theorem setCols_fb (xs xe : Half) : (s.setCols xs xe).fb = s.fb := rfl
@[simp] theorem setCols_fbPixels (xs xe : Half) : (s.setCols xs xe).fbPixels = s.fbPixels := rfl
@[simp] theorem setCols_attached (xs xe : Half) : (s.setCols xs xe).attached = s.attached := rfl
@[simp] theorem setCols_env (xs xe : Half) : (s.setCols xs xe).env = s.env := rfl
@[simp] theorem setCols_requests (xs xe : Half) : (s.setCols xs xe).requests = s.requests := rfl

@[simp] theorem setRows_cfg (ys ye : Half) : (s.setRows ys ye).cfg = s.cfg := rfl
@[simp] theorem setRows_par (ys ye : Half) : (s.setRows ys ye).par = s.par := rfl
@[simp] theorem setRows_rot (ys ye : Half) : (s.setRows ys ye).rot = s.rot := rfl
@[simp] theorem setRows_cord (ys ye : Half) : (s.setRows ys ye).cord = s.cord := rfl
@[simp] theorem setRows_win (ys ye : Half) : (s.setRows ys ye).win = { s.win with ys := ys, ye := ye } := rfl
@[simp] theorem setRows_winValid (ys ye : Half) : (s.setRows ys ye).winValid = s.winValid := rfl
@[simp] theorem setRows_step (ys ye : Half) : (s.setRows ys ye).step = s.step := rfl
@[simp] theorem setRows_pix (ys ye : Half) : (s.setRows ys ye).pix = s.pix := rfl
@[simp] theorem setRows_txbuf (ys ye : Half) : (s.setRows ys ye).txbuf = s.txbuf := rfl
@[simp] theorem setRows_xfers (ys ye : Half) : (s.setRows ys ye).xfers = s.xfers := rfl
@[simp] theorem setRows_dc (ys ye : Half) : (s.setRows ys ye).dc = s.dc := rfl
@[simp] theorem setRows_rst (ys ye : Half) : (s.setRows ys ye).rst = s.rst := rfl
@[simp] theorem setRows_life (ys ye : Half) : (s.setRows ys ye).life = s.life := rfl
@[simp] theorem setRows_err (ys ye : Half) : (s.setRows ys ye).err = s.err := rfl
@[simp] theorem setRows_busy (ys ye : Half) : (s.setRows ys ye).busy = s.busy := rfl
@[simp] theorem setRows_now (ys ye : Half) : (s.setRows ys ye).now = s.now := rfl
@[simp] theorem setRows_trace (ys ye : Half) : (s.setRows ys ye).trace = s.trace := rfl
@[simp] theorem setRows_fb (ys ye : Half) : (s.setRows ys ye).fb = s.fb := rfl
@[simp] theorem setRows_fbPixels (ys ye : Half) : (s.setRows ys ye).fbPixels = s.fbPixels := rfl
@[simp] theorem setRows_attached (ys ye : Half) : (s.setRows ys ye).attached = s.attached := rfl
@[simp] theorem setRows_env (ys ye : Half) : (s.setRows ys ye).env = s.env := rfl
@[simp] theorem setRows_requests (ys ye : Half) : (s.setRows ys ye).requests = s.requests := rfl

@[simp] theorem setWinValid_cfg (b : Bool) : (s.setWinValid b).cfg = s.cfg := rfl
@[simp] theorem setWinValid_par (b : Bool) : (s.setWinValid b).par = s.par := rfl
@[simp] theorem setWinValid_rot (b : Bool) : (s.setWinValid b).rot = s.rot := rfl
@[simp] theorem setWinValid_cord (b : Bool) : (s.setWinValid b).cord = s.cord := rfl
@[simp] theorem setWinValid_win (b : Bool) : (s.setWinValid b).win = s.win := rfl
@[simp] theorem setWinValid_winValid (b : Bool) : (s.setWinValid b).winValid = b := rfl
@[simp] theorem setWinValid_step (b : Bool) : (s.setWinValid b).step = s.step := rfl
@[simp] theorem setWinValid_pix (b : Bool) : (s.setWinValid b).pix = s.pix := rfl
@[simp] theorem setWinValid_txbuf (b : Bool) : (s.setWinValid b).txbuf = s.txbuf := rfl
@[simp] theorem setWinValid_xfers (b : Bool) : (s.setWinValid b).xfers = s.xfers := rfl
@[simp] theorem setWinValid_dc (b : Bool) : (s.setWinValid b).dc = s.dc := rfl
@[simp] theorem setWinValid_rst (b : Bool) : (s.setWinValid b).rst = s.rst := rfl
@[simp] theorem setWinValid_life (b : Bool) : (s.setWinValid b).life = s.life := rfl
@[simp] theorem setWinValid_err (b : Bool) : (s.setWinValid b).err = s.err := rfl
@[simp] theorem setWinValid_busy (b : Bool) : (s.setWinValid b).busy = s.busy := rfl
@[simp] theorem setWinValid_now (b : Bool) : (s.setWinValid b).now = s.now := rfl
@[simp] theorem setWinValid_trace (b : Bool) : (s.setWinValid b).trace = s.trace := rfl
@[simp] theorem setWinValid_fb (b : Bool) : (s.setWinValid b).fb = s.fb := rfl
@[simp] theorem setWinValid_fbPixels (b : Bool) : (s.setWinValid b).fbPixels = s.fbPixels := rfl
@[simp] theorem setWinValid_attached (b : Bool) : (s.setWinValid b).attached = s.attached := rfl
@[simp] theorem setWinValid_env (b : Bool) : (s.setWinValid b).env = s.env := rfl
@[simp] theorem setWinValid_requests (b : Bool) : (s.setWinValid b).requests = s.requests := rfl

@[simp] theorem nextStep_cfg : s.nextStep.cfg = s.cfg := rfl
@[simp] theorem nextStep_par : s.nextStep.par = s.par := rfl
@[simp] theorem nextStep_rot : s.nextStep.rot = s.rot := rfl
@[simp] theorem nextStep_cord : s.nextStep.cord = s.cord := rfl
@[simp] theorem nextStep_win : s.nextStep.win = s.win := rfl
@[simp] theorem nextStep_winValid : s.nextStep.winValid = s.winValid := rfl
@[simp] theorem nextStep_step : s.nextStep.step = s.step + 1#5 := rfl
@[simp] theorem nextStep_pix : s.nextStep.pix = s.pix := rfl
@[simp] theorem nextStep_txbuf : s.nextStep.txbuf = s.txbuf := rfl
@[simp] theorem nextStep_xfers : s.nextStep.xfers = s.xfers := rfl
@[simp] theorem nextStep_dc : s.nextStep.dc = s.dc := rfl
@[simp] theorem nextStep_rst : s.nextStep.rst = s.rst := rfl
@[simp] theorem nextStep_life : s.nextStep.life = s.life := rfl
@[simp] theorem nextStep_err : s.nextStep.err = s.err := rfl
@[simp] theorem nextStep_busy : s.nextStep.busy = s.busy := rfl
@[simp] theorem nextStep_now : s.nextStep.now = s.now := rfl
@[simp] theorem nextStep_trace : s.nextStep.trace = s.trace := rfl
@[simp] theorem nextStep_fb : s.nextStep.fb = s.fb := rfl
@[simp] theorem nextStep_fbPixels : s.nextStep.fbPixels = s.fbPixels := rfl
@[simp] theorem nextStep_attached : s.nextStep.attached = s.attached := rfl
@[simp] theorem nextStep_env : s.nextStep.env = s.env := rfl
@[simp] theorem nextStep_requests : s.nextStep.requests = s.requests := rfl

@[simp] theorem setLife_cfg (l : Life) : (s.setLife l).cfg = s.cfg := rfl
@[simp] theorem setLife_par (l : Life) : (s.setLife l).par = s.par := rfl
@[simp] theorem setLife_rot (l : Life) : (s.setLife l).rot = s.rot := rfl
@[simp] theorem setLife_cord (l : Life) : (s.setLife l).cord = s.cord := rfl
@[simp] theorem setLife_win (l : Life) : (s.setLife l).win = s.win := rfl
@[simp] theorem setLife_winValid (l : Life) : (s.setLife l).winValid = s.winValid := rfl
@[simp] theorem setLife_step (l : Life) : (s.setLife l).step = s.step := rfl
@[simp] theorem setLife_pix (l : Life) : (s.setLife l).pix = s.pix := rfl
@[simp] theorem setLife_txbuf (l : Life) : (s.setLife l).txbuf = s.txbuf := rfl
@[simp] theorem setLife_xfers (l : Life) : (s.setLife l).xfers = s.xfers := rfl
@[simp] theorem setLife_dc (l : Life) : (s.setLife l).dc = s.dc := rfl
@[simp] theorem setLife_rst (l : Life) : (s.setLife l).rst = s.rst := rfl
@[simp] theorem setLife_life (l : Life) : (s.setLife l).life = l := rfl
@[simp] theorem setLife_err (l : Life) : (s.setLife l).err = s.err := rfl
@[simp] theorem setLife_busy (l : Life) : (s.setLife l).busy = s.busy := rfl
@[simp] theorem setLife_now (l : Life) : (s.setLife l).now = s.now := rfl
@[simp] theorem setLife_trace (l : Life) : (s.setLife l).trace = s.trace := rfl
@[simp] theorem setLife_fb (l : Life) : (s.setLife l).fb = s.fb := rfl
@[simp] theorem setLife_fbPixels (l : Life) : (s.setLife l).fbPixels = s.fbPixels := rfl
@[simp] theorem setLife_attached (l : Life) : (s.setLife l).attached = s.attached := rfl
@[simp] theorem setLife_env (l : Life) : (s.setLife l).env = s.env := rfl
@[simp] theorem setLife_requests (l : Life) : (s.setLife l).requests = s.requests := rfl

@[simp] theorem latch_cfg (r : Rotation) (o : ColorOrder) : (s.latch r o).cfg = s.cfg := rfl
@[simp] theorem latch_par (r : Rotation) (o : ColorOrder) : (s.latch r o).par = s.par := rfl
@[simp] theorem latch_rot (r : Rotation) (o : ColorOrder) : (s.latch r o).rot = r := rfl
@[simp] theorem latch_cord (r : Rotation) (o : ColorOrder) : (s.latch r o).cord = o := rfl
@[simp] theorem latch_win (r : Rotation) (o : ColorOrder) : (s.latch r o).win = s.win := rfl
@[simp] theorem latch_winValid (r : Rotation) (o : ColorOrder) : (s.latch r o).winValid = s.winValid := rfl
@[simp] theorem latch_step (r : Rotation) (o : ColorOrder) : (s.latch r o).step = 0#5 := rfl
@[simp] theorem latch_pix (r : Rotation) (o : ColorOrder) : (s.latch r o).pix = s.pix := rfl
@[simp] theorem latch_txbuf (r : Rotation) (o : ColorOrder) : (s.latch r o).txbuf = s.txbuf := rfl
@[simp] theorem latch_xfers (r : Rotation) (o : ColorOrder) : (s.latch r o).xfers = s.xfers := rfl
@[simp] theorem latch_dc (r : Rotation) (o : ColorOrder) : (s.latch r o).dc = s.dc := rfl
@[simp] theorem latch_rst (r : Rotation) (o : ColorOrder) : (s.latch r o).rst = s.rst := rfl
@[simp] theorem latch_life (r : Rotation) (o : ColorOrder) : (s.latch r o).life = s.life := rfl
@[simp] theorem latch_err (r : Rotation) (o : ColorOrder) : (s.latch r o).err = s.err := rfl
@[simp] theorem latch_busy (r : Rotation) (o : ColorOrder) : (s.latch r o).busy = s.busy := rfl
@[simp] theorem latch_now (r : Rotation) (o : ColorOrder) : (s.latch r o).now = s.now := rfl
@[simp] theorem latch_trace (r : Rotation) (o : ColorOrder) : (s.latch r o).trace = s.trace := rfl
@[simp] theorem latch_fb (r : Rotation) (o : ColorOrder) : (s.latch r o).fb = s.fb := rfl
@[simp] theorem latch_fbPixels (r : Rotation) (o : ColorOrder) : (s.latch r o).fbPixels = s.fbPixels := rfl
@[simp] theorem latch_attached (r : Rotation) (o : ColorOrder) : (s.latch r o).attached = s.attached := rfl
@[simp] theorem latch_env (r : Rotation) (o : ColorOrder) : (s.latch r o).env = s.env := rfl
@[simp] theorem latch_requests (r : Rotation) (o : ColorOrder) : (s.latch r o).requests = s.requests := rfl

@[simp] theorem clearPixels_cfg : s.clearPixels.cfg = s.cfg := rfl
@[simp] theorem clearPixels_par : s.clearPixels.par = s.par := rfl
@[simp] theorem clearPixels_rot : s.clearPixels.rot = s.rot := rfl
@[simp] theorem clearPixels_cord : s.clearPixels.cord = s.cord := rfl
@[simp] theorem clearPixels_win : s.clearPixels.win = s.win := rfl
@[simp] theorem clearPixels_winValid : s.clearPixels.winValid = s.winValid := rfl
@[simp] theorem clearPixels_step : s.clearPixels.step = s.step := rfl
@[simp] theorem clearPixels_pix : s.clearPixels.pix = 0 := rfl
@[simp] theorem clearPixels_txbuf : s.clearPixels.txbuf = [] := rfl
@[simp] theorem clearPixels_xfers : s.clearPixels.xfers = s.xfers := rfl
@[simp] theorem clearPixels_dc : s.clearPixels.dc = s.dc := rfl
@[simp] theorem clearPixels_rst : s.clearPixels.rst = s.rst := rfl
@[simp] theorem clearPixels_life : s.clearPixels.life = s.life := rfl
@[simp] theorem clearPixels_err : s.clearPixels.err = s.err := rfl
@[simp] theorem clearPixels_busy : s.clearPixels.busy = s.busy := rfl
@[simp] theorem clearPixels_now : s.clearPixels.now = s.now := rfl
@[simp] theorem clearPixels_trace : s.clearPixels.trace = s.trace := rfl
@[simp] theorem clearPixels_fb : s.clearPixels.fb = s.fb := rfl
@[simp] theorem clearPixels_fbPixels : s.clearPixels.fbPixels = s.fbPixels := rfl
@[simp] theorem clearPixels_attached : s.clearPixels.attached = s.attached := rfl
@[simp] theorem clearPixels_env : s.clearPixels.env = s.env := rfl
@[simp] theorem clearPixels_requests : s.clearPixels.requests = s.requests := rfl

@[simp] theorem clearTx_cfg : s.clearTx.cfg = s.cfg := rfl
@[simp] theorem clearTx_par : s.clearTx.par = s.par := rfl
@[simp] theorem clearTx_rot : s.clearTx.rot = s.rot := rfl
@[simp] theorem clearTx_cord : s.clearTx.cord = s.cord := rfl
@[simp] theorem clearTx_win : s.clearTx.win = s.win := rfl
@[simp] theorem clearTx_winValid : s.clearTx.winValid = s.winValid := rfl
@[simp] theorem clearTx_step : s.clearTx.step = s.step := rfl
@[simp] theorem clearTx_pix : s.clearTx.pix = s.pix := rfl
@[simp] theorem clearTx_txbuf : s.clearTx.txbuf = [] := rfl
@[simp] theorem clearTx_xfers : s.clearTx.xfers = s.xfers := rfl
@[simp] theorem clearTx_dc : s.clearTx.dc = s.dc := rfl
@[simp] theorem clearTx_rst : s.clearTx.rst = s.rst := rfl
@[simp] theorem clearTx_life : s.clearTx.life = s.life := rfl
@[simp] theorem clearTx_err : s.clearTx.err = s.err := rfl
@[simp] theorem clearTx_busy : s.clearTx.busy = s.busy := rfl
@[simp] theorem clearTx_now : s.clearTx.now = s.now := rfl
@[simp] theorem clearTx_trace : s.clearTx.trace = s.trace := rfl
@[simp] theorem clearTx_fb : s.clearTx.fb = s.fb := rfl
@[simp] theorem clearTx_fbPixels : s.clearTx.fbPixels = s.fbPixels := rfl
@[simp] theorem clearTx_attached : s.clearTx.attached = s.attached := rfl
@[simp] theorem clearTx_env : s.clearTx.env = s.env := rfl
@[simp] theorem clearTx_requests : s.clearTx.requests = s.requests := rfl

@[simp] theorem pushPixel_cfg (p : Half) : (s.pushPixel p).cfg = s.cfg := rfl
@[simp] theorem pushPixel_par (p : Half) : (s.pushPixel p).par = s.par := rfl
@[simp] theorem pushPixel_rot (p : Half) : (s.pushPixel p).rot = s.rot := rfl
@[simp] theorem pushPixel_cord (p : Half) : (s.pushPixel p).cord = s.cord := rfl
@[simp] theorem pushPixel_win (p : Half) : (s.pushPixel p).win = s.win := rfl
@[simp] theorem pushPixel_winValid (p : Half) : (s.pushPixel p).winValid = s.winValid := rfl
@[simp] theorem pushPixel_step (p : Half) : (s.pushPixel p).step = s.step := rfl
@[simp] theorem pushPixel_pix (p : Half) : (s.pushPixel p).pix = s.pix + 1 := rfl
@[simp] theorem pushPixel_txbuf (p : Half) : (s.pushPixel p).txbuf = s.txbuf ++ be16 p := rfl
@[simp] theorem pushPixel_xfers (p : Half) : (s.pushPixel p).xfers = s.xfers := rfl
@[simp] theorem pushPixel_dc (p : Half) : (s.pushPixel p).dc = s.dc := rfl
@[simp] theorem pushPixel_rst (p : Half) : (s.pushPixel p).rst = s.rst := rfl
@[simp] theorem pushPixel_life (p : Half) : (s.pushPixel p).life = s.life := rfl
@[simp] theorem pushPixel_err (p : Half) : (s.pushPixel p).err = s.err := rfl
@[simp] theorem pushPixel_busy (p : Half) : (s.pushPixel p).busy = s.busy := rfl
@[simp] theorem pushPixel_now (p : Half) : (s.pushPixel p).now = s.now := rfl
@[simp] theorem pushPixel_trace (p : Half) : (s.pushPixel p).trace = s.trace := rfl
@[simp] theorem pushPixel_fb (p : Half) : (s.pushPixel p).fb = s.fb := rfl
@[simp] theorem pushPixel_fbPixels (p : Half) : (s.pushPixel p).fbPixels = s.fbPixels := rfl
@[simp] theorem pushPixel_attached (p : Half) : (s.pushPixel p).attached = s.attached := rfl
@[simp] theorem pushPixel_env (p : Half) : (s.pushPixel p).env = s.env := rfl
@[simp] theorem pushPixel_requests (p : Half) : (s.pushPixel p).requests = s.requests := rfl

@[simp] theorem record_cfg (e : Event) (b : Bool) : (s.record e b).cfg = s.cfg := rfl
@[simp] theorem record_par (e : Event) (b : Bool) : (s.record e b).par = s.par := rfl
@[simp] theorem record_rot (e : Event) (b : Bool) : (s.record e b).rot = s.rot := rfl
@[simp] theorem record_cord (e : Event) (b : Bool) : (s.record e b).cord = s.cord := rfl
@[simp] theorem record_win (e : Event) (b : Bool) : (s.record e b).win = s.win := rfl
@[simp] theorem record_winValid (e : Event) (b : Bool) : (s.record e b).winValid = s.winValid := rfl
@[simp] theorem record_step (e : Event) (b : Bool) : (s.record e b).step = s.step := rfl
@[simp] theorem record_pix (e : Event) (b : Bool) : (s.record e b).pix = s.pix := rfl
@[simp] theorem record_txbuf (e : Event) (b : Bool) : (s.record e b).txbuf = s.txbuf := rfl
@[simp] theorem record_xfers (e : Event) (b : Bool) : (s.record e b).xfers = s.xfers := rfl
@[simp] theorem record_dc (e : Event) (b : Bool) : (s.record e b).dc = s.dc := rfl
@[simp] theorem record_rst (e : Event) (b : Bool) : (s.record e b).rst = s.rst := rfl
@[simp] theorem record_life (e : Event) (b : Bool) : (s.record e b).life = s.life := rfl
@[simp] theorem record_err (e : Event) (b : Bool) : (s.record e b).err = s.err := rfl
@[simp] theorem record_busy (e : Event) (b : Bool) : (s.record e b).busy = s.busy := rfl
@[simp] theorem record_now (e : Event) (b : Bool) : (s.record e b).now = s.now := rfl
@[simp] theorem record_trace (e : Event) (b : Bool) : (s.record e b).trace = s.trace ++ [{ event := e, ok := b }] := rfl
@[simp] theorem record_fb (e : Event) (b : Bool) : (s.record e b).fb = s.fb := rfl
@[simp] theorem record_fbPixels (e : Event) (b : Bool) : (s.record e b).fbPixels = s.fbPixels := rfl
@[simp] theorem record_attached (e : Event) (b : Bool) : (s.record e b).attached = s.attached := rfl
@[simp] theorem record_env (e : Event) (b : Bool) : (s.record e b).env = s.env.drop 1 := rfl
@[simp] theorem record_requests (e : Event) (b : Bool) : (s.record e b).requests = s.requests := rfl

@[simp] theorem enter_cfg : s.enter.cfg = s.cfg := rfl
@[simp] theorem enter_par : s.enter.par = s.par := rfl
@[simp] theorem enter_rot : s.enter.rot = s.rot := rfl
@[simp] theorem enter_cord : s.enter.cord = s.cord := rfl
@[simp] theorem enter_win : s.enter.win = s.win := rfl
@[simp] theorem enter_winValid : s.enter.winValid = s.winValid := rfl
@[simp] theorem enter_step : s.enter.step = s.step := rfl
@[simp] theorem enter_pix : s.enter.pix = s.pix := rfl
@[simp] theorem enter_txbuf : s.enter.txbuf = s.txbuf := rfl
@[simp] theorem enter_xfers : s.enter.xfers = 0 := rfl
@[simp] theorem enter_dc : s.enter.dc = s.dc := rfl
@[simp] theorem enter_rst : s.enter.rst = s.rst := rfl
@[simp] theorem enter_life : s.enter.life = s.life := rfl
@[simp] theorem enter_err : s.enter.err = s.err := rfl
@[simp] theorem enter_busy : s.enter.busy = true := rfl
@[simp] theorem enter_now : s.enter.now = s.now := rfl
@[simp] theorem enter_trace : s.enter.trace = s.trace := rfl
@[simp] theorem enter_fb : s.enter.fb = s.fb := rfl
@[simp] theorem enter_fbPixels : s.enter.fbPixels = s.fbPixels := rfl
@[simp] theorem enter_attached : s.enter.attached = s.attached := rfl
@[simp] theorem enter_env : s.enter.env = s.env := rfl
@[simp] theorem enter_requests : s.enter.requests = s.requests := rfl

@[simp] theorem finish_cfg (r : Result) : (s.finish r).cfg = s.cfg := rfl
@[simp] theorem finish_par (r : Result) : (s.finish r).par = s.par := rfl
@[simp] theorem finish_rot (r : Result) : (s.finish r).rot = s.rot := rfl
@[simp] theorem finish_cord (r : Result) : (s.finish r).cord = s.cord := rfl
@[simp] theorem finish_win (r : Result) : (s.finish r).win = s.win := rfl
@[simp] theorem finish_winValid (r : Result) : (s.finish r).winValid = s.winValid := rfl
@[simp] theorem finish_step (r : Result) : (s.finish r).step = s.step := rfl
@[simp] theorem finish_pix (r : Result) : (s.finish r).pix = s.pix := rfl
@[simp] theorem finish_txbuf (r : Result) : (s.finish r).txbuf = s.txbuf := rfl
@[simp] theorem finish_xfers (r : Result) : (s.finish r).xfers = s.xfers := rfl
@[simp] theorem finish_dc (r : Result) : (s.finish r).dc = s.dc := rfl
@[simp] theorem finish_rst (r : Result) : (s.finish r).rst = s.rst := rfl
@[simp] theorem finish_life (r : Result) : (s.finish r).life = s.life := rfl
@[simp] theorem finish_err (r : Result) : (s.finish r).err = r := rfl
@[simp] theorem finish_busy (r : Result) : (s.finish r).busy = false := rfl
@[simp] theorem finish_now (r : Result) : (s.finish r).now = s.now := rfl
@[simp] theorem finish_trace (r : Result) : (s.finish r).trace = s.trace := rfl
@[simp] theorem finish_fb (r : Result) : (s.finish r).fb = s.fb := rfl
@[simp] theorem finish_fbPixels (r : Result) : (s.finish r).fbPixels = s.fbPixels := rfl
@[simp] theorem finish_attached (r : Result) : (s.finish r).attached = s.attached := rfl
@[simp] theorem finish_env (r : Result) : (s.finish r).env = s.env := rfl
@[simp] theorem finish_requests (r : Result) : (s.finish r).requests = s.requests := rfl

@[simp] theorem setErr_cfg (r : Result) : (s.setErr r).cfg = s.cfg := rfl
@[simp] theorem setErr_par (r : Result) : (s.setErr r).par = s.par := rfl
@[simp] theorem setErr_rot (r : Result) : (s.setErr r).rot = s.rot := rfl
@[simp] theorem setErr_cord (r : Result) : (s.setErr r).cord = s.cord := rfl
@[simp] theorem setErr_win (r : Result) : (s.setErr r).win = s.win := rfl
@[simp] theorem setErr_winValid (r : Result) : (s.setErr r).winValid = s.winValid := rfl
@[simp] theorem setErr_step (r : Result) : (s.setErr r).step = s.step := rfl
@[simp] theorem setErr_pix (r : Result) : (s.setErr r).pix = s.pix := rfl
@[simp] theorem setErr_txbuf (r : Result) : (s.setErr r).txbuf = s.txbuf := rfl
@[simp] theorem setErr_xfers (r : Result) : (s.setErr r).xfers = s.xfers := rfl
@[simp] theorem setErr_dc (r : Result) : (s.setErr r).dc = s.dc := rfl
@[simp] theorem setErr_rst (r : Result) : (s.setErr r).rst = s.rst := rfl
@[simp] theorem setErr_life (r : Result) : (s.setErr r).life = s.life := rfl
@[simp] theorem setErr_err (r : Result) : (s.setErr r).err = r := rfl
@[simp] theorem setErr_busy (r : Result) : (s.setErr r).busy = s.busy := rfl
@[simp] theorem setErr_now (r : Result) : (s.setErr r).now = s.now := rfl
@[simp] theorem setErr_trace (r : Result) : (s.setErr r).trace = s.trace := rfl
@[simp] theorem setErr_fb (r : Result) : (s.setErr r).fb = s.fb := rfl
@[simp] theorem setErr_fbPixels (r : Result) : (s.setErr r).fbPixels = s.fbPixels := rfl
@[simp] theorem setErr_attached (r : Result) : (s.setErr r).attached = s.attached := rfl
@[simp] theorem setErr_env (r : Result) : (s.setErr r).env = s.env := rfl
@[simp] theorem setErr_requests (r : Result) : (s.setErr r).requests = s.requests := rfl

end

end Sys2Proof.Machine
end

