-- ==== Sys2Proof/Laws/Ops.lean ====
section
/-! SUPPORT. The shared operations, each with what it can do said once: primitive calls, straight-line programs, the entry
and the end of an operation. A proof about an instruction cites these and does not unfold them. -/

namespace Sys2Proof.Machine

open Sys2Proof

/-! ### Primitive calls -/

/-- The overshoot of the next answer, 0 where it is not `ok`. -/
def okExtra (s : State) : Nat := (nextAnswer s).overshoot

/-- Inversion of a primitive call that answered `ok`. -/
theorem primitive_through {e : Event} {f : Nat → State → State} {r : Result} {s t : State}
    (h : primitive e f r s = .through t) :
    (nextAnswer s).isOk = true ∧ t = f (okExtra s) (s.record e true) := by
  unfold primitive at h
  cases hn : nextAnswer s <;> simp_all [Answer.isOk, okExtra, Answer.overshoot]

/-- Inversion of a primitive call that failed. -/
theorem primitive_raised {e : Event} {f : Nat → State → State} {r q : Result} {s t : State}
    (h : primitive e f r s = .raised q t) : nextAnswer s = .fail ∧ q = r ∧ t = s.record e false := by
  unfold primitive at h
  cases hn : nextAnswer s <;> simp_all

theorem primitive_hung {e : Event} {f : Nat → State → State} {r : Result} {s : State}
    (h : primitive e f r s = .hung) : nextAnswer s = .hang := by
  unfold primitive at h
  cases hn : nextAnswer s <;> simp_all

theorem primitive_of_ok {e : Event} {f : Nat → State → State} {r : Result} {s : State}
    (h : (nextAnswer s).isOk = true) : primitive e f r s = .through (f (okExtra s) (s.record e true)) := by
  unfold primitive okExtra
  cases hn : nextAnswer s <;> simp_all [Answer.isOk, Answer.overshoot]

theorem primitive_of_fail {e : Event} {f : Nat → State → State} {r : Result} {s : State}
    (h : nextAnswer s = .fail) : primitive e f r s = .raised r (s.record e false) := by
  simp [primitive, h]

/-! ### Micro-actions -/

/-- The primitive call an action makes in a state, if it makes one. -/
def callOf (dc : Level) : Action → Option Event
  | .rst l => some (.gpioRst l)
  | .dc l => some (.gpioDc l)
  | .xfer bs => some (.busXfer dc bs)
  | .sleep n => some (.sleep n)
  | .setCols _ _ => none
  | .setRows _ _ => none
  | .setWinValid _ => none
  | .nextStep => none
  | .pushPixel _ => none

/-- What an action does when its call, if any, answers `ok`. -/
def applyAct (a : Action) (s : State) : State :=
  match a with
  | .rst l => (s.record (.gpioRst l) true).setRst l
  | .dc l => (s.record (.gpioDc l) true).setDc l
  | .xfer bs => (s.record (.busXfer s.dc bs) true).countXfer
  | .sleep n => (s.record (.sleep n) true).advance (n + okExtra s)
  | .setCols xs xe => s.setCols xs xe
  | .setRows ys ye => s.setRows ys ye
  | .setWinValid b => s.setWinValid b
  | .nextStep => s.nextStep
  | .pushPixel x => s.pushPixel (readPixel s.fb x)

/-- What a program does when every call answers `ok`. -/
def applyActs (as : List Action) (s : State) : State := as.foldl (fun t a => applyAct a t) s

@[simp] theorem applyActs_nil (s : State) : applyActs [] s = s := rfl
@[simp] theorem applyActs_cons (a : Action) (as : List Action) (s : State) :
    applyActs (a :: as) s = applyActs as (applyAct a s) := rfl
theorem applyActs_append (as bs : List Action) (s : State) :
    applyActs (as ++ bs) s = applyActs bs (applyActs as s) := by simp [applyActs]

/-- One action, by its call: no call runs through; `ok` runs through; `fail` raises R241's error; else it hangs. -/
theorem act_cases (a : Action) (s : State) :
    (callOf s.dc a = none ∧ act a s = .through (applyAct a s)) ∨
    (∃ e, callOf s.dc a = some e ∧ (nextAnswer s).isOk = true ∧ act a s = .through (applyAct a s)) ∨
    (∃ e, callOf s.dc a = some e ∧ nextAnswer s = .fail ∧ act a s = .raised (errorFor s.xfers e) (s.record e false)) ∨
    (∃ e, callOf s.dc a = some e ∧ nextAnswer s = .hang ∧ act a s = .hung) := by
  have answer : (nextAnswer s).isOk = true ∨ nextAnswer s = .fail ∨ nextAnswer s = .hang := by
    cases nextAnswer s <;> simp [Answer.isOk]
  rcases answer with h | h | h
  · cases a <;> simp [act, callOf, applyAct, callRst, callDc, callXfer, callSleep, primitive_of_ok h, h]
  · cases a <;>
      simp [act, callOf, applyAct, callRst, callDc, callXfer, callSleep, primitive, h, errorFor, Answer.isOk]
  · cases a <;>
      simp [act, callOf, applyAct, callRst, callDc, callXfer, callSleep, primitive, h, Answer.isOk]

/-- The mode-select level after an action that ran through. -/
def levelOf (dc : Level) : Action → Level
  | .dc l => l
  | .rst _ => dc
  | .xfer _ => dc
  | .sleep _ => dc
  | .setCols _ _ => dc
  | .setRows _ _ => dc
  | .setWinValid _ => dc
  | .nextStep => dc
  | .pushPixel _ => dc

/-- The calls of a program that starts at a mode-select level. -/
def callsFrom (dc : Level) : List Action → List Event
  | [] => []
  | a :: as => (callOf dc a).toList ++ callsFrom (levelOf dc a) as

/-- The mode-select level a program ends at. -/
def levelFrom (dc : Level) (as : List Action) : Level := as.foldl levelOf dc

@[simp] theorem levelFrom_nil (dc : Level) : levelFrom dc [] = dc := rfl
@[simp] theorem levelFrom_cons (dc : Level) (a : Action) (as : List Action) :
    levelFrom dc (a :: as) = levelFrom (levelOf dc a) as := rfl
theorem levelFrom_append (dc : Level) (as bs : List Action) :
    levelFrom dc (as ++ bs) = levelFrom (levelFrom dc as) bs := by simp [levelFrom]

theorem callsFrom_append (dc : Level) (as bs : List Action) :
    callsFrom dc (as ++ bs) = callsFrom dc as ++ callsFrom (levelFrom dc as) bs := by
  induction as generalizing dc with
  | nil => simp [callsFrom]
  | cons a as ih => simp [callsFrom, ih]

@[simp] theorem okEntries_nil : okEntries [] = [] := rfl
theorem okEntries_append (es fs : List Event) : okEntries (es ++ fs) = okEntries es ++ okEntries fs := by
  simp [okEntries]

theorem applyAct_dc (a : Action) (s : State) : (applyAct a s).dc = levelOf s.dc a := by
  cases a <;> simp [applyAct, levelOf]

theorem applyAct_trace (a : Action) (s : State) :
    (applyAct a s).trace = s.trace ++ okEntries (callOf s.dc a).toList := by
  cases a <;> simp [applyAct, callOf, okEntries]

theorem applyAct_env (a : Action) (s : State) :
    (applyAct a s).env = s.env.drop (callOf s.dc a).toList.length := by
  cases a <;> simp [applyAct, callOf]

/-- What no action changes, whatever its call answers. -/
structure Untouched (s t : State) : Prop where
  cfg : t.cfg = s.cfg
  par : t.par = s.par
  rot : t.rot = s.rot
  cord : t.cord = s.cord
  life : t.life = s.life
  err : t.err = s.err
  busy : t.busy = s.busy
  fb : t.fb = s.fb
  fbPixels : t.fbPixels = s.fbPixels
  attached : t.attached = s.attached
  requests : t.requests = s.requests

theorem Untouched.refl (s : State) : Untouched s s := by constructor <;> rfl

theorem Untouched.trans {s t u : State} (h : Untouched s t) (k : Untouched t u) : Untouched s u := by
  constructor
  · exact k.cfg.trans h.cfg
  · exact k.par.trans h.par
  · exact k.rot.trans h.rot
  · exact k.cord.trans h.cord
  · exact k.life.trans h.life
  · exact k.err.trans h.err
  · exact k.busy.trans h.busy
  · exact k.fb.trans h.fb
  · exact k.fbPixels.trans h.fbPixels
  · exact k.attached.trans h.attached
  · exact k.requests.trans h.requests

theorem record_untouched (s : State) (e : Event) (b : Bool) : Untouched s (s.record e b) := by constructor <;> rfl

theorem applyAct_untouched (a : Action) (s : State) : Untouched s (applyAct a s) := by
  cases a <;> constructor <;> rfl

theorem applyActs_untouched (as : List Action) (s : State) : Untouched s (applyActs as s) := by
  induction as generalizing s with
  | nil => exact .refl s
  | cons a as ih => exact (applyAct_untouched a s).trans (ih _)

theorem applyActs_dc (as : List Action) (s : State) : (applyActs as s).dc = levelFrom s.dc as := by
  induction as generalizing s with
  | nil => rfl
  | cons a as ih => rw [applyActs_cons, ih, applyAct_dc, levelFrom_cons]

theorem applyActs_trace (as : List Action) (s : State) :
    (applyActs as s).trace = s.trace ++ okEntries (callsFrom s.dc as) := by
  induction as generalizing s with
  | nil => simp [callsFrom]
  | cons a as ih => rw [applyActs_cons, ih, applyAct_trace, applyAct_dc, callsFrom, okEntries_append, List.append_assoc]

theorem applyActs_env (as : List Action) (s : State) :
    (applyActs as s).env = s.env.drop (callsFrom s.dc as).length := by
  induction as generalizing s with
  | nil => simp [callsFrom]
  | cons a as ih =>
    rw [applyActs_cons, ih, applyAct_env, applyAct_dc, callsFrom, List.drop_drop, List.length_append]

theorem applyActs_xfers (as : List Action) (s : State) :
    (applyActs as s).xfers = s.xfers + transfersIn (callsFrom s.dc as) := by
  induction as generalizing s with
  | nil => simp [callsFrom, transfersIn]
  | cons a as ih =>
    rw [applyActs_cons, ih, applyAct_dc]
    cases a <;> simp [applyAct, callsFrom, callOf, transfersIn, eventTransfer, levelOf, Nat.add_assoc, Nat.add_comm]

theorem applyActs_now (as : List Action) (s : State) :
    (applyActs as s).now = s.now + elapsed (callsFrom s.dc as) s.env := by
  induction as generalizing s with
  | nil => simp [callsFrom, elapsed]
  | cons a as ih =>
    rw [applyActs_cons, ih, applyAct_dc]
    cases a <;> simp [applyAct, callsFrom, callOf, elapsed, levelOf, okExtra, nextAnswer, Nat.add_assoc]

theorem applyActs_rst (as : List Action) (s : State) :
    (applyActs as s).rst = resetLineAfter s.rst (callsFrom s.dc as) := by
  induction as generalizing s with
  | nil => simp [callsFrom, resetLineAfter]
  | cons a as ih =>
    rw [applyActs_cons, ih, applyAct_dc]
    cases a <;> simp [applyAct, callsFrom, callOf, resetLineAfter, levelOf]

/-- The mode-select level is the one its calls leave. -/
theorem levelFrom_eq (as : List Action) (dc : Level) : levelFrom dc as = levelAfter dc (callsFrom dc as) := by
  induction as generalizing dc with
  | nil => rfl
  | cons a as ih => cases a <;> simp [ih, levelOf, levelAfter, callsFrom, callOf]

/-! ### Straight-line programs -/

/-- How a program ends: it runs through as `applyActs`; or it stops at its first failing call, every call before which
answered `ok`; or a call is never answered. -/
theorem runActions_cases (as : List Action) (s : State) :
    runActions as s = .through (applyActs as s) ∨
    (∃ pre a post e, as = pre ++ a :: post ∧ callOf (levelFrom s.dc pre) a = some e ∧
      nextAnswer (applyActs pre s) = .fail ∧
      runActions as s = .raised (errorFor (applyActs pre s).xfers e) ((applyActs pre s).record e false)) ∨
    (runActions as s = .hung ∧ .hang ∈ s.env) := by
  induction as generalizing s with
  | nil => exact .inl rfl
  | cons a as ih =>
    rcases act_cases a s with ⟨-, h⟩ | ⟨e, -, -, h⟩ | ⟨e, hc, ha, h⟩ | ⟨e, hc, ha, h⟩
    · rcases ih (applyAct a s) with k | ⟨pre, b, post, e, rfl, hc, hf, k⟩ | ⟨k, hm⟩
      · exact .inl (by simp [runActions, h, Progress.andThen, k])
      · refine .inr (.inl ⟨a :: pre, b, post, e, rfl, ?_, hf, ?_⟩)
        · rwa [levelFrom_cons, ← applyAct_dc]
        · simp [runActions, h, Progress.andThen, k]
      · refine .inr (.inr ⟨by simp [runActions, h, Progress.andThen, k], ?_⟩)
        rw [applyAct_env] at hm; exact List.mem_of_mem_drop hm
    · rcases ih (applyAct a s) with k | ⟨pre, b, post, e, rfl, hc, hf, k⟩ | ⟨k, hm⟩
      · exact .inl (by simp [runActions, h, Progress.andThen, k])
      · refine .inr (.inl ⟨a :: pre, b, post, e, rfl, ?_, hf, ?_⟩)
        · rwa [levelFrom_cons, ← applyAct_dc]
        · simp [runActions, h, Progress.andThen, k]
      · refine .inr (.inr ⟨by simp [runActions, h, Progress.andThen, k], ?_⟩)
        rw [applyAct_env] at hm; exact List.mem_of_mem_drop hm
    · exact .inr (.inl ⟨[], a, as, e, rfl, hc, ha, by simp [runActions, h, Progress.andThen]⟩)
    · refine .inr (.inr ⟨by simp [runActions, h, Progress.andThen], ?_⟩)
      unfold nextAnswer at ha
      cases henv : s.env with
      | nil => simp [henv] at ha
      | cons x xs => simp_all

/-- When the next answers are `ok`, so is the first of them. -/
theorem nextAnswer_isOk {n : Nat} {s : State} (h : answersOk (n + 1) s = true) : (nextAnswer s).isOk = true := by
  unfold nextAnswer
  cases henv : s.env with
  | nil => rfl
  | cons x xs => simp [answersOk, henv] at h; simpa using h.1

theorem act_of_ok {a : Action} {s : State} (h : (nextAnswer s).isOk = true) : act a s = .through (applyAct a s) := by
  rcases act_cases a s with ⟨-, k⟩ | ⟨e, -, -, k⟩ | ⟨e, -, ha, -⟩ | ⟨e, -, ha, -⟩
  · exact k
  · exact k
  · simp [ha, Answer.isOk] at h
  · simp [ha, Answer.isOk] at h

theorem act_of_none {a : Action} {s : State} (h : callOf s.dc a = none) : act a s = .through (applyAct a s) := by
  rcases act_cases a s with ⟨-, k⟩ | ⟨e, k, -⟩ | ⟨e, k, -⟩ | ⟨e, k, -⟩
  · exact k
  · simp [h] at k
  · simp [h] at k
  · simp [h] at k

theorem answersOk_drop {n m : Nat} {s t : State} (h : answersOk (n + m) s = true) (ht : t.env = s.env.drop n) :
    answersOk m t = true := by
  simp only [answersOk, List.all_eq_true, ht] at h ⊢
  intro x hx
  refine h x ?_
  rw [List.take_drop] at hx
  exact List.mem_of_mem_drop hx

theorem answersOk_le {n m : Nat} {s : State} (h : answersOk n s = true) (hm : m ≤ n) : answersOk m s = true := by
  simp only [answersOk, List.all_eq_true] at h ⊢
  exact fun x hx => h x (List.mem_of_mem_take (i := m) (by rw [List.take_take, Nat.min_eq_left hm]; exact hx))

@[simp] theorem Progress.andThen_through (s : State) (f : State → Progress) :
    (Progress.through s).andThen f = f s := rfl
@[simp] theorem Progress.andThen_raised (e : Result) (s : State) (f : State → Progress) :
    (Progress.raised e s).andThen f = .raised e s := rfl
@[simp] theorem Progress.andThen_hung (f : State → Progress) : Progress.hung.andThen f = .hung := rfl

theorem runActions_append (as bs : List Action) (s : State) :
    runActions (as ++ bs) s = (runActions as s).andThen (runActions bs) := by
  induction as generalizing s with
  | nil => rfl
  | cons a as ih =>
    simp only [List.cons_append, runActions]
    cases act a s with
    | through t => simp [ih]
    | raised e t => rfl
    | hung => rfl

/-- When its calls answer `ok`, a program runs through. -/
theorem runActions_of_ok {as : List Action} {s : State} (h : answersOk (callsFrom s.dc as).length s = true) :
    runActions as s = .through (applyActs as s) := by
  induction as generalizing s with
  | nil => rfl
  | cons a as ih =>
    have hstep : act a s = .through (applyAct a s) := by
      cases hc : callOf s.dc a with
      | none => exact act_of_none hc
      | some e =>
        refine act_of_ok (nextAnswer_isOk (n := (callsFrom (levelOf s.dc a) as).length) ?_)
        simpa [callsFrom, hc, Nat.add_comm] using h
    have ht : answersOk (callsFrom (applyAct a s).dc as).length (applyAct a s) = true := by
      rw [applyAct_dc]
      refine answersOk_drop (n := (callOf s.dc a).toList.length) ?_ (applyAct_env a s)
      simpa [callsFrom] using h
    simp [runActions, hstep, Progress.andThen, ih ht]

/-- When the n-th call of a program fails, those before it answering `ok`, the program stops there. -/
theorem runActions_of_fail {pre post : List Action} {a : Action} {e : Event} {s : State}
    (ha : callOf (levelFrom s.dc pre) a = some e) (h : failsAfter (callsFrom s.dc pre).length s = true) :
    runActions (pre ++ a :: post) s =
      .raised (errorFor (applyActs pre s).xfers e) ((applyActs pre s).record e false) := by
  simp only [failsAfter, Bool.and_eq_true, decide_eq_true_eq] at h
  rw [runActions_append, runActions_of_ok h.1]
  have hd : nextAnswer (applyActs pre s) = .fail := by
    simp [nextAnswer, applyActs_env, List.headD_eq_head?_getD, List.head?_drop, h.2]
  rcases act_cases a (applyActs pre s) with ⟨k, -⟩ | ⟨e', -, k, -⟩ | ⟨e', k, -, hr⟩ | ⟨e', -, k, -⟩
  · rw [applyActs_dc, ha] at k; cases k
  · rw [hd] at k; cases k
  · rw [applyActs_dc, ha] at k
    cases k
    simp [Progress.andThen, runActions, hr]
  · rw [hd] at k; cases k

/-! ### Entry, return, rejection -/

theorem noMeaning_eq_none {s : State} : noMeaning s = none ↔ s.attached = true ∧ parametersWf s.cfg s.par = true := by
  unfold noMeaning
  cases s.attached <;> cases parametersWf s.cfg s.par <;> simp

theorem idle_iff {s : State} : idle s = true ↔ noMeaning s = none ∧ s.busy = false := by
  rw [noMeaning_eq_none]; simp [idle]

theorem inProgress_iff {s : State} : inProgress s = true ↔ noMeaning s = none ∧ s.busy = true := by
  rw [noMeaning_eq_none]; simp [inProgress]

/-- An admitted operation of an idle handle, with well-formed operands and its premise met. -/
theorem issue_admitted {op : HostOp} {ok : Bool} {body : State → Progress} {s : State} (hi : idle s = true)
    (hok : ok = true) (ha : admitted op s.life = true) : issue op ok none body s = conclude op (body s.enter) := by
  obtain ⟨hn, hb⟩ := idle_iff.mp hi
  simp [issue, hn, hb, hok, ha]

/-- An operation that is not admitted (R250). -/
theorem issue_rejected {op : HostOp} {ok : Bool} {premise : Option Refusal} {body : State → Progress} {s : State}
    (hi : idle s = true) (hok : ok = true) (ha : admitted op s.life = false) :
    issue op ok premise body s = reject s := by
  obtain ⟨hn, hb⟩ := idle_iff.mp hi
  simp [issue, hn, hb, hok, ha]

/-- What an operation that answers a next state did: it was rejected, it returned Ok, or it aborted. -/
theorem issue_next {op : HostOp} {ok : Bool} {premise : Option Refusal} {body : State → Progress} {s t : State}
    (h : issue op ok premise body s = .next t) :
    idle s = true ∧ ok = true ∧
      ((admitted op s.life = false ∧ t = s.setErr (.sequenceError .order)) ∨
       (admitted op s.life = true ∧ premise = none ∧
          ((∃ u, body s.enter = .through u ∧ t = returnOk op u) ∨
           (∃ e u, body s.enter = .raised e u ∧ t = takeAbort op e u)))) := by
  unfold issue at h
  split at h
  · cases h
  · rename_i hn
    by_cases hb : s.busy = true
    · simp [hb] at h
    · by_cases hok : ok = true
      · refine ⟨idle_iff.mpr ⟨hn, by simpa using hb⟩, hok, ?_⟩
        by_cases ha : admitted op s.life = true
        · cases premise with
          | some r => simp [hb, hok, ha] at h
          | none =>
            refine .inr ⟨ha, rfl, ?_⟩
            simp only [hb, hok, ha] at h
            cases hbody : body s.enter with
            | through u => simp [hbody, conclude] at h; exact .inl ⟨u, rfl, h.symm⟩
            | raised e u => simp [hbody, conclude] at h; exact .inr ⟨e, u, rfl, h.symm⟩
            | hung => simp [hbody, conclude] at h
        · simp [hb, hok, ha, reject] at h
          exact .inl ⟨by simpa using ha, h.symm⟩
      · simp [hb, hok] at h

/-- A frame of the operation in progress, at its place. -/
theorem runFrame_inPlace {op : HostOp} {place ok : Bool} {body : List Action} {s : State} (hi : inProgress s = true)
    (hp : place = true) (hok : ok = true) :
    runFrame op place ok body s =
      match runActions body s with
      | .through t => .next t
      | .raised e t => .next (takeAbort op e t)
      | .hung => .fault .environmentHangs := by
  obtain ⟨hn, hb⟩ := inProgress_iff.mp hi
  simp [runFrame, hn, hb, hp, hok]
  all_goals (cases runActions body s <;> rfl)

/-- What a frame that answers a next state did. -/
theorem runFrame_next {op : HostOp} {place ok : Bool} {body : List Action} {s t : State}
    (h : runFrame op place ok body s = .next t) :
    inProgress s = true ∧ place = true ∧ ok = true ∧
      (runActions body s = .through t ∨ ∃ e u, runActions body s = .raised e u ∧ t = takeAbort op e u) := by
  unfold runFrame at h
  split at h
  · cases h
  · rename_i hn
    by_cases hb : s.busy = true
    · by_cases hp : place = true
      · by_cases hok : ok = true
        · refine ⟨inProgress_iff.mpr ⟨hn, hb⟩, hp, hok, ?_⟩
          simp only [hb, hp, hok] at h
          cases hr : runActions body s with
          | through u => simp [hr] at h; exact .inl (by rw [h])
          | raised e u => simp [hr] at h; exact .inr ⟨e, u, rfl, h.symm⟩
          | hung => simp [hr] at h
        · simp [hb, hp, hok] at h
      · simp [hb, hp] at h
    · simp [hb] at h

/-! ### The abort -/

@[simp] theorem takeAbort_busy (op : HostOp) (e : Result) (s : State) : (takeAbort op e s).busy = false := rfl
@[simp] theorem takeAbort_err (op : HostOp) (e : Result) (s : State) : (takeAbort op e s).err = e := rfl
@[simp] theorem takeAbort_winValid (op : HostOp) (e : Result) (s : State) : (takeAbort op e s).winValid = false := rfl
@[simp] theorem takeAbort_life (op : HostOp) (e : Result) (s : State) :
    (takeAbort op e s).life = lifeOnAbort op s.life := rfl
@[simp] theorem takeAbort_trace (op : HostOp) (e : Result) (s : State) : (takeAbort op e s).trace = s.trace := by
  by_cases h : op = .flush <;> simp [takeAbort, h]
@[simp] theorem takeAbort_xfers (op : HostOp) (e : Result) (s : State) : (takeAbort op e s).xfers = s.xfers := by
  by_cases h : op = .flush <;> simp [takeAbort, h]
@[simp] theorem returnOk_busy (op : HostOp) (s : State) : (returnOk op s).busy = false := rfl
@[simp] theorem returnOk_err (op : HostOp) (s : State) : (returnOk op s).err = .ok := rfl
@[simp] theorem returnOk_life (op : HostOp) (s : State) : (returnOk op s).life = lifeOnOk op s.life := rfl
@[simp] theorem returnOk_trace (op : HostOp) (s : State) : (returnOk op s).trace = s.trace := by
  by_cases h : op = .flush <;> simp [returnOk, h]

end Sys2Proof.Machine
end

