-- ==== Sys2Proof/Laws/Programs.lean ====
section
/-! SUPPORT. A straight-line program as a whole: the state it ends in when its calls answer `ok` (`finished`), and the state
it stops in when its n-th call fails (`stopped`), each as one record update over what the program says. -/

namespace Sys2Proof.Machine

open Sys2Proof

/-! ### What a program does to the registers that no call writes -/

def winStep (w : Window) : Action → Window
  | .setCols xs xe => { w with xs := xs, xe := xe }
  | .setRows ys ye => { w with ys := ys, ye := ye }
  | .rst _ | .dc _ | .xfer _ | .sleep _ | .setWinValid _ | .nextStep | .pushPixel _ => w

/-- WIN after a program. -/
def winFrom (w : Window) (as : List Action) : Window := as.foldl winStep w

def winValidStep (b : Bool) : Action → Bool
  | .setWinValid c => c
  | .rst _ | .dc _ | .xfer _ | .sleep _ | .setCols _ _ | .setRows _ _ | .nextStep | .pushPixel _ => b

/-- WIN_VALID after a program. -/
def winValidFrom (b : Bool) (as : List Action) : Bool := as.foldl winValidStep b

def stepStep (k : BitVec 5) : Action → BitVec 5
  | .nextStep => k + 1#5
  | .rst _ | .dc _ | .xfer _ | .sleep _ | .setCols _ _ | .setRows _ _ | .setWinValid _ | .pushPixel _ => k

/-- STEP after a program. -/
def stepFrom (k : BitVec 5) (as : List Action) : BitVec 5 := as.foldl stepStep k

def pixelStep (fb : Memory) (x : List Byte × Nat) : Action → List Byte × Nat
  | .pushPixel a => (x.1 ++ be16 (readPixel fb a), x.2 + 1)
  | .rst _ | .dc _ | .xfer _ | .sleep _ | .setCols _ _ | .setRows _ _ | .setWinValid _ | .nextStep => x

/-- TXBUF and PIX after a program. -/
def pixelsFrom (fb : Memory) (x : List Byte × Nat) (as : List Action) : List Byte × Nat := as.foldl (pixelStep fb) x

theorem winFrom_append (w : Window) (as bs : List Action) :
    winFrom w (as ++ bs) = winFrom (winFrom w as) bs := by simp [winFrom]
theorem winValidFrom_append (b : Bool) (as bs : List Action) :
    winValidFrom b (as ++ bs) = winValidFrom (winValidFrom b as) bs := by simp [winValidFrom]
theorem stepFrom_append (k : BitVec 5) (as bs : List Action) :
    stepFrom k (as ++ bs) = stepFrom (stepFrom k as) bs := by simp [stepFrom]
theorem pixelsFrom_append (fb : Memory) (x : List Byte × Nat) (as bs : List Action) :
    pixelsFrom fb x (as ++ bs) = pixelsFrom fb (pixelsFrom fb x as) bs := by simp [pixelsFrom]

@[simp] theorem winFrom_nil (w : Window) : winFrom w [] = w := rfl
@[simp] theorem winFrom_cons (w : Window) (a : Action) (as : List Action) :
    winFrom w (a :: as) = winFrom (winStep w a) as := rfl
@[simp] theorem winValidFrom_nil (b : Bool) : winValidFrom b [] = b := rfl
@[simp] theorem winValidFrom_cons (b : Bool) (a : Action) (as : List Action) :
    winValidFrom b (a :: as) = winValidFrom (winValidStep b a) as := rfl
@[simp] theorem stepFrom_nil (k : BitVec 5) : stepFrom k [] = k := rfl
@[simp] theorem stepFrom_cons (k : BitVec 5) (a : Action) (as : List Action) :
    stepFrom k (a :: as) = stepFrom (stepStep k a) as := rfl
@[simp] theorem pixelsFrom_nil (fb : Memory) (x : List Byte × Nat) : pixelsFrom fb x [] = x := rfl
@[simp] theorem pixelsFrom_cons (fb : Memory) (x : List Byte × Nat) (a : Action) (as : List Action) :
    pixelsFrom fb x (a :: as) = pixelsFrom fb (pixelStep fb x a) as := rfl

theorem applyActs_win (as : List Action) (s : State) : (applyActs as s).win = winFrom s.win as := by
  induction as generalizing s with
  | nil => rfl
  | cons a as ih => rw [applyActs_cons, ih, winFrom_cons]; cases a <;> rfl

theorem applyActs_winValid (as : List Action) (s : State) : (applyActs as s).winValid = winValidFrom s.winValid as := by
  induction as generalizing s with
  | nil => rfl
  | cons a as ih => rw [applyActs_cons, ih, winValidFrom_cons]; cases a <;> rfl

theorem applyActs_step (as : List Action) (s : State) : (applyActs as s).step = stepFrom s.step as := by
  induction as generalizing s with
  | nil => rfl
  | cons a as ih => rw [applyActs_cons, ih, stepFrom_cons]; cases a <;> rfl

theorem applyActs_pixels (as : List Action) (s : State) :
    ((applyActs as s).txbuf, (applyActs as s).pix) = pixelsFrom s.fb (s.txbuf, s.pix) as := by
  induction as generalizing s with
  | nil => rfl
  | cons a as ih =>
    rw [applyActs_cons, ih, pixelsFrom_cons, (applyAct_untouched a s).fb]
    cases a <;> rfl

/-! ### A program that runs through -/

/-- The state a program ends in when its calls answer `ok`. -/
def finished (as : List Action) (s : State) : State :=
  { s with
    dc := levelAfter s.dc (callsFrom s.dc as)
    rst := resetLineAfter s.rst (callsFrom s.dc as)
    xfers := s.xfers + transfersIn (callsFrom s.dc as)
    now := s.now + elapsed (callsFrom s.dc as) s.env
    trace := s.trace ++ okEntries (callsFrom s.dc as)
    env := s.env.drop (callsFrom s.dc as).length
    win := winFrom s.win as
    winValid := winValidFrom s.winValid as
    step := stepFrom s.step as
    txbuf := (pixelsFrom s.fb (s.txbuf, s.pix) as).1
    pix := (pixelsFrom s.fb (s.txbuf, s.pix) as).2 }

theorem applyActs_eq (as : List Action) (s : State) : applyActs as s = finished as s := by
  have hu := applyActs_untouched as s
  have hp := applyActs_pixels as s
  apply State.ext
  · exact hu.cfg
  · exact hu.par
  · exact hu.rot
  · exact hu.cord
  · exact applyActs_win as s
  · exact applyActs_winValid as s
  · exact applyActs_step as s
  · exact congrArg Prod.snd hp
  · exact congrArg Prod.fst hp
  · exact applyActs_xfers as s
  · rw [applyActs_dc, levelFrom_eq]; rfl
  · exact applyActs_rst as s
  · exact hu.life
  · exact hu.err
  · exact hu.busy
  · exact applyActs_now as s
  · exact applyActs_trace as s
  · exact hu.fb
  · exact hu.fbPixels
  · exact hu.attached
  · exact applyActs_env as s
  · exact hu.requests

/-- When its calls answer `ok`, a program ends in `finished`. -/
theorem runActions_finished {as : List Action} {s : State} (h : answersOk (callsFrom s.dc as).length s = true) :
    runActions as s = .through (finished as s) := by
  rw [runActions_of_ok h, applyActs_eq]

/-! ### A program that stops -/

/-- Whether an action makes a primitive call. -/
def isCall : Action → Bool
  | .rst _ | .dc _ | .xfer _ | .sleep _ => true
  | .setCols _ _ | .setRows _ _ | .setWinValid _ | .nextStep | .pushPixel _ => false

/-- The actions before the n-th call (from 0). -/
def untilCall : Nat → List Action → List Action
  | _, [] => []
  | 0, a :: as => if isCall a then [] else a :: untilCall 0 as
  | n + 1, a :: as => a :: (if isCall a then untilCall n as else untilCall (n + 1) as)

theorem callOf_none {dc : Level} {a : Action} (h : isCall a = false) : callOf dc a = none := by
  cases a <;> simp_all [isCall, callOf]

theorem callOf_some {dc : Level} {a : Action} (h : isCall a = true) : ∃ e, callOf dc a = some e := by
  cases a <;> simp_all [isCall, callOf]

/-- A program split at its n-th call. -/
theorem split_at_call {n : Nat} {as : List Action} {dc : Level} (hn : n < (callsFrom dc as).length) :
    ∃ a post, as = untilCall n as ++ a :: post ∧ callsFrom dc (untilCall n as) = (callsFrom dc as).take n ∧
      callOf (levelFrom dc (untilCall n as)) a = some (failingCall (callsFrom dc as) n) := by
  induction as generalizing n dc with
  | nil => simp [callsFrom] at hn
  | cons a as ih =>
    by_cases hc : isCall a = true
    · obtain ⟨e, he⟩ := callOf_some (dc := dc) hc
      cases n with
      | zero => exact ⟨a, as, by simp [untilCall, hc], by simp [untilCall, hc, callsFrom],
          by simp [untilCall, hc, he, callsFrom, failingCall]⟩
      | succ n =>
        obtain ⟨b, post, h1, h2, h3⟩ := ih (n := n) (dc := levelOf dc a) (by simpa [callsFrom, he] using hn)
        refine ⟨b, post, ?_, ?_, ?_⟩
        · simpa [untilCall, hc] using h1
        · simp [untilCall, hc, callsFrom, he, h2]
        · simpa [untilCall, hc, callsFrom, he, failingCall] using h3
    · have hc' : isCall a = false := by simpa using hc
      have he := callOf_none (dc := dc) hc'
      have hu : untilCall n (a :: as) = a :: untilCall n as := by cases n <;> simp [untilCall, hc']
      obtain ⟨b, post, h1, h2, h3⟩ := ih (n := n) (dc := levelOf dc a) (by simpa [callsFrom, he] using hn)
      refine ⟨b, post, ?_, ?_, ?_⟩
      · simpa [hu] using h1
      · simp [hu, callsFrom, he, h2]
      · simpa [hu, callsFrom, he] using h3

/-- The state a program stops in when its n-th call (from 0) fails. -/
def stopped (as : List Action) (n : Nat) (s : State) : State :=
  { s with
    dc := levelAfter s.dc ((callsFrom s.dc as).take n)
    rst := resetLineAfter s.rst ((callsFrom s.dc as).take n)
    xfers := s.xfers + transfersIn ((callsFrom s.dc as).take n)
    now := s.now + elapsed ((callsFrom s.dc as).take n) s.env
    trace := s.trace ++ traceToFailure (callsFrom s.dc as) n
    env := s.env.drop (n + 1)
    win := winFrom s.win (untilCall n as)
    winValid := winValidFrom s.winValid (untilCall n as)
    step := stepFrom s.step (untilCall n as)
    txbuf := (pixelsFrom s.fb (s.txbuf, s.pix) (untilCall n as)).1
    pix := (pixelsFrom s.fb (s.txbuf, s.pix) (untilCall n as)).2 }

/-- When its n-th call fails, those before it answering `ok`, a program ends in `stopped`. -/
theorem runActions_stopped {as : List Action} {n : Nat} {s : State} (hn : n < (callsFrom s.dc as).length)
    (h : failsAfter n s = true) :
    runActions as s =
      .raised (errorFor (s.xfers + transfersIn ((callsFrom s.dc as).take n)) (failingCall (callsFrom s.dc as) n))
        (stopped as n s) := by
  obtain ⟨a, post, h1, h2, h3⟩ := split_at_call hn
  have hl : (callsFrom s.dc (untilCall n as)).length = n := by rw [h2, List.length_take]; omega
  have key := runActions_of_fail (post := post) h3 (by rw [hl]; exact h)
  rw [← h1] at key
  rw [key, applyActs_eq]
  congr 1
  · simp [finished, h2]
  · simp only [finished, stopped, State.record, h2, traceToFailure, failedEntry, List.append_assoc, List.drop_drop,
      List.length_take, Nat.min_eq_left (Nat.le_of_lt hn)]

/-- How a program ends, by its answers: through, stopped at a failing call, or hung. -/
theorem runActions_total (as : List Action) (s : State) :
    (answersOk (callsFrom s.dc as).length s = true ∧ runActions as s = .through (finished as s)) ∨
    (∃ n, n < (callsFrom s.dc as).length ∧ failsAfter n s = true ∧
      runActions as s =
        .raised (errorFor (s.xfers + transfersIn ((callsFrom s.dc as).take n)) (failingCall (callsFrom s.dc as) n))
          (stopped as n s)) ∨
    (runActions as s = .hung ∧ .hang ∈ s.env) := by
  have hall : ∀ (env : List Answer) (m : Nat), (env.take m).all Answer.isOk = true ∨
      ∃ n, n < m ∧ (env.take n).all Answer.isOk = true ∧ (env[n]? = some .fail ∨ env[n]? = some .hang) := by
    intro env
    induction env with
    | nil => intro m; simp
    | cons x xs ih =>
      intro m
      cases m with
      | zero => simp
      | succ m =>
        cases x with
        | ok d =>
          rcases ih m with h | ⟨n, hn, h1, h2⟩
          · exact .inl (by simpa [Answer.isOk] using h)
          · exact .inr ⟨n + 1, by omega, by simpa [Answer.isOk] using h1, by simpa using h2⟩
        | fail => exact .inr ⟨0, by omega, by simp, by simp⟩
        | hang => exact .inr ⟨0, by omega, by simp, by simp⟩
  rcases hall s.env (callsFrom s.dc as).length with h | ⟨n, hn, h1, h2 | h2⟩
  · exact .inl ⟨h, runActions_finished h⟩
  · have hf : failsAfter n s = true := by simp [failsAfter, answersOk, h1, h2]
    exact .inr (.inl ⟨n, hn, hf, runActions_stopped hn hf⟩)
  · refine .inr (.inr ⟨?_, List.mem_of_getElem? h2⟩)
    obtain ⟨a, post, e1, e2, e3⟩ := split_at_call hn
    have hl : (callsFrom s.dc (untilCall n as)).length = n := by rw [e2, List.length_take]; omega
    have hok := runActions_of_ok (as := untilCall n as) (s := s) (by rw [hl]; exact h1)
    have hd : nextAnswer (applyActs (untilCall n as) s) = .hang := by
      simp [nextAnswer, applyActs_env, hl, List.headD_eq_head?_getD, List.head?_drop, h2]
    rw [e1, runActions_append, hok]
    rcases act_cases a (applyActs (untilCall n as) s) with ⟨k, -⟩ | ⟨e', -, k, -⟩ | ⟨e', -, k', -⟩ | ⟨e', -, -, hr⟩
    · rw [applyActs_dc, e3] at k; cases k
    · simp [hd, Answer.isOk] at k
    · rw [hd] at k'; cases k'
    · simp [Progress.andThen, runActions, hr]

end Sys2Proof.Machine
end

