-- ==== Sys2Proof/Laws/Operations.lean ====
section
/-! SUPPORT. Every instruction as one straight-line program: a host operation is `issue` of its program (`exec_operation`), a
frame is `runFrame` of its own (`exec_frame`); and what either can answer (`operation_next`, `frame_next`). A proof over
all instructions starts from these. -/

namespace Sys2Proof.Machine

open Sys2Proof

/-! ### INITIALIZE's loop and FLUSH's two stages as one program -/

/-- INITIALIZE's program: the turns of its loop, one after the other. -/
def initActions (p : Params) (rot : Rotation) (order : ColorOrder) : List Action :=
  (initTable p rot order).flatMap (slotActions p)

theorem stepFrom_of_still {as : List Action} (h : ∀ a ∈ as, a ≠ .nextStep) (k : BitVec 5) : stepFrom k as = k := by
  induction as generalizing k with
  | nil => rfl
  | cons a as ih =>
    rw [stepFrom_cons, ih (fun b hb => h b (List.mem_cons_of_mem _ hb))]
    have := h a (List.mem_cons_self ..)
    cases a <;> simp_all [stepStep]

theorem sendActions_still (cmd : Byte) (data : List Byte) : ∀ a ∈ sendActions cmd data, a ≠ .nextStep := by
  by_cases h : data = [] <;> simp [sendActions, cmdPhase, dataPhase, h]

theorem slotActions_step (p : Params) (sl : Slot) (k : BitVec 5) : stepFrom k (slotActions p sl) = k + 1#5 := by
  have hm : ∀ a ∈ mirrorActions p sl.kind, a ≠ .nextStep := by cases sl.kind <;> simp [mirrorActions]
  have hd : ∀ a ∈ delayActions sl.delay, a ≠ .nextStep := by by_cases h : sl.delay = 0 <;> simp [delayActions, h]
  simp only [slotActions, stepFrom_append, stepFrom_of_still (sendActions_still _ _), stepFrom_of_still hm,
    stepFrom_of_still hd]
  rfl

/-- The loop of R155, from STEP = k with n turns to go, is the program of the slots from k on. -/
theorem initLoop_eq (n k : Nat) (s : State) (hk : k + n = 18) (hs : s.step.toNat = k) :
    initLoop n s = runActions (((initTable s.par s.rot s.cord).drop k).flatMap (slotActions s.par)) s := by
  induction n generalizing k s with
  | zero =>
    have : (initTable s.par s.rot s.cord).drop k = [] := by
      rw [List.drop_eq_nil_iff]; simp [initTable, slotKinds]; omega
    simp [initLoop, this, runActions]
  | succ n ih =>
    have hlt : k < (initTable s.par s.rot s.cord).length := by simp [initTable, slotKinds]; omega
    have hc : currentSlot s = some (initTable s.par s.rot s.cord)[k] := by
      simp [currentSlot, hs, List.getElem?_eq_getElem hlt]
    rw [List.drop_eq_getElem_cons hlt, List.flatMap_cons, runActions_append]
    simp only [initLoop, hc]
    rcases runActions_total (slotActions s.par (initTable s.par s.rot s.cord)[k]) s with
      ⟨-, h⟩ | ⟨m, -, -, h⟩ | ⟨h, -⟩
    · rw [h]
      simp only [Progress.andThen_through]
      have hstep : (finished (slotActions s.par (initTable s.par s.rot s.cord)[k]) s).step.toNat = k + 1 := by
        simp only [finished, slotActions_step, BitVec.toNat_add, hs]
        simp; omega
      exact ih (k + 1) _ (by omega) hstep
    · rw [h]; rfl
    · rw [h]; rfl

theorem initLoop_entry (rot : Rotation) (order : ColorOrder) (s : State) :
    initLoop 18 (initEntry rot order s) = runActions (initActions s.par rot order) (initEntry rot order s) := by
  rw [initLoop_eq 18 0 (initEntry rot order s) rfl rfl]
  rfl

/-- The bytes SERIALIZE leaves in TXBUF. -/
def serialized (fb : Memory) (addresses : List Nat) : List Byte := addresses.flatMap fun a => be16 (readPixel fb a)

theorem pixelsFrom_serialize (fb : Memory) (addresses : List Nat) (x : List Byte × Nat) :
    pixelsFrom fb x (addresses.map .pushPixel) = (x.1 ++ serialized fb addresses, x.2 + addresses.length) := by
  induction addresses generalizing x with
  | nil => simp [serialized]
  | cons a as ih =>
    simp only [List.map_cons, pixelsFrom_cons, ih, pixelStep, serialized, List.flatMap_cons, List.length_cons,
      List.append_assoc]
    congr 1
    omega

theorem pixelsFrom_of_still {fb : Memory} {as : List Action} (h : ∀ a ∈ as, ∀ x, a ≠ .pushPixel x)
    (x : List Byte × Nat) : pixelsFrom fb x as = x := by
  induction as generalizing x with
  | nil => rfl
  | cons a as ih =>
    rw [pixelsFrom_cons, ih (fun b hb => h b (List.mem_cons_of_mem _ hb))]
    have := h a (List.mem_cons_self ..)
    cases a <;> simp_all [pixelStep]

theorem setWindowActions_still (c : CmdBytes) (w : Window) : ∀ a ∈ setWindowActions c w, ∀ x, a ≠ .pushPixel x := by
  simp [setWindowActions, colRangeActions, rowRangeActions, memWriteActions, sendActions, cmdPhase, dataPhase,
    rangeData, be16]

/-- FLUSH's program. -/
def flushActions (s : State) (w : Window) : List Action :=
  setWindowActions s.par.cmd w ++ serializeActions s.cfg s.rot w ++
    .dc .high :: (chunks s.cfg.maxXfer (serialized s.fb (windowAddresses s.cfg s.rot w))).map .xfer

theorem flushBody_eq (w : Window) (s : State) : flushBody w s = runActions (flushActions s w) s.clearPixels := by
  rw [flushBody, flushActions, runActions_append (setWindowActions s.par.cmd w ++ serializeActions s.cfg s.rot w) _]
  rcases runActions_total (setWindowActions s.par.cmd w ++ serializeActions s.cfg s.rot w) s.clearPixels with
    ⟨-, h⟩ | ⟨m, -, -, h⟩ | ⟨h, -⟩
  · rw [h]
    simp only [Progress.andThen_through]
    congr 1
    simp only [streamActions]
    congr 3
    simp only [finished, pixelsFrom_append, pixelsFrom_of_still (setWindowActions_still _ _), serializeActions,
      pixelsFrom_serialize]
    simp [State.clearPixels]
  · rw [h]; rfl
  · rw [h]; rfl

/-! ### Host operations -/

/-- The operation of an instruction; for a frame, the one that runs it is `frameOpOf`. -/
def opOf : Instr → HostOp
  | .init _ _ => .init
  | .flush _ => .flush
  | .setWindow _ => .setWindow
  | .send _ _ => .send
  | .hwReset => .hwReset
  | .frameRateA | .frameRateB | .frameRateC | .inversionCtrl | .powerCtrl1 | .powerCtrl2 | .powerCtrl3 => .hwReset
  | .powerCtrl4 | .powerCtrl5 | .vcomLevel | .gammaA | .gammaB | .pixelFormat | .orientation => .hwReset
  | .colRange _ _ | .rowRange _ _ | .memWrite | .sleepExit | .displayOn => .hwReset

/-- The registers an operation writes on its own entry, after the common one. -/
def entryOf (i : Instr) (t : State) : State :=
  match i with
  | .hwReset => (t.setWinValid false).setLife .unreset
  | .init rot order => initEntry rot order t
  | .flush _ => t.clearPixels
  | .send _ _ => t.setWinValid false
  | _ => t

/-- An operation's program. -/
def programOf (i : Instr) (t : State) : List Action :=
  match i with
  | .hwReset => hwResetActions t.par.delays
  | .init rot order => initActions t.par rot order
  | .flush w => flushActions t w
  | .setWindow w => setWindowActions t.par.cmd w
  | .send cmd data => sendActions cmd data
  | _ => []

/-- What an admitted operation still takes for granted. -/
def premiseOf (i : Instr) (s : State) : Option Refusal :=
  match i with
  | .flush _ => flushPremise s
  | _ => none

theorem operandsOk_of_wf {i : Instr} {s : State} (h : ∀ rot, i.wf s.cfg rot = true) : operandsOk i s = true := by
  unfold operandsOk
  split <;> simp [h]

theorem operandsOk_flush (w : Window) (s : State) : operandsOk (.flush w) s = windowOk s w := rfl
theorem operandsOk_setWindow (w : Window) (s : State) : operandsOk (.setWindow w) s = windowOk s w := rfl

/-- In READY the window check is the one under ROT. -/
theorem windowOk_ready {s : State} (hl : s.life = .ready) (w : Window) : windowOk s w = windowWf s.cfg s.rot w := if_pos hl

/-- A window that is well-formed under ROT passes the check in every LIFE. -/
theorem windowOk_of_wf {s : State} {w : Window} (h : windowWf s.cfg s.rot w = true) : windowOk s w = true := by
  unfold windowOk
  split
  · exact h
  · have : windowWf s.cfg .deg0 w = true ∨ windowWf s.cfg .deg90 w = true := by
      cases hr : s.rot <;> rw [hr] at h
      · exact .inl h
      · exact .inr h
      · exact .inl h
      · exact .inr h
    simpa using this

/-- Every host operation is `issue` of its program. -/
theorem exec_operation {i : Instr} (hi : isOperation i = true) (s : State) :
    exec i s =
      issue (opOf i) (operandsOk i s) (premiseOf i s) (fun t => runActions (programOf i t) (entryOf i t)) s := by
  cases i
  case hwReset => rw [operandsOk_of_wf (fun _ => rfl)]; rfl
  case init rot order =>
    rw [operandsOk_of_wf (fun _ => rfl)]
    simp only [exec, execInit, opOf, premiseOf, programOf, entryOf]
    congr 1
    funext t
    exact initLoop_entry rot order t
  case flush w =>
    rw [operandsOk_flush]
    simp only [exec, execFlush, opOf, premiseOf, programOf, entryOf]
    congr 1
    funext t
    exact flushBody_eq w t
  case setWindow w => rfl
  case send cmd data => rw [operandsOk_of_wf (fun _ => rfl)]; rfl
  all_goals simp [isOperation] at hi

/-- The state an operation's program starts in. -/
def startOf (i : Instr) (s : State) : State := entryOf i s.enter

theorem entryOf_env (i : Instr) (t : State) : (entryOf i t).env = t.env := by cases i <;> rfl
theorem entryOf_dc (i : Instr) (t : State) : (entryOf i t).dc = t.dc := by cases i <;> rfl
theorem entryOf_xfers (i : Instr) (t : State) : (entryOf i t).xfers = t.xfers := by cases i <;> rfl
theorem startOf_env (i : Instr) (s : State) : (startOf i s).env = s.env := by rw [startOf, entryOf_env]; rfl
theorem startOf_dc (i : Instr) (s : State) : (startOf i s).dc = s.dc := by rw [startOf, entryOf_dc]; rfl
theorem startOf_xfers (i : Instr) (s : State) : (startOf i s).xfers = 0 := by rw [startOf, entryOf_xfers]; rfl

theorem programOf_enter (i : Instr) (s : State) : programOf i s.enter = programOf i s := by
  cases i <;> rfl

/-- The calls of an operation. -/
def callsOf (i : Instr) (s : State) : List Event := callsFrom s.dc (programOf i s)

theorem answersOk_env {n : Nat} {s t : State} (h : answersOk n s = true) (ht : t.env = s.env) :
    answersOk n t = true := by simpa [answersOk, ht] using h

theorem failsAfter_env {n : Nat} {s t : State} (h : failsAfter n s = true) (ht : t.env = s.env) :
    failsAfter n t = true := by simpa [failsAfter, answersOk, ht] using h

/-- An operation that is not admitted (R250). -/
theorem exec_rejected {i : Instr} {s : State} (hi : isOperation i = true) (hidle : idle s = true)
    (hwf : operandsOk i s = true) (ha : admitted (opOf i) s.life = false) :
    exec i s = .next (s.setErr (.sequenceError .order)) := by
  rw [exec_operation hi, issue_rejected hidle hwf ha]; rfl

/-- An admitted operation whose calls answer `ok`. -/
theorem exec_finished {i : Instr} {s : State} (hi : isOperation i = true) (hidle : idle s = true)
    (hwf : operandsOk i s = true) (ha : admitted (opOf i) s.life = true) (hp : premiseOf i s = none)
    (hok : answersOk (callsOf i s).length s = true) :
    exec i s = .next (returnOk (opOf i) (finished (programOf i s) (startOf i s))) := by
  rw [exec_operation hi, hp, issue_admitted hidle hwf ha, programOf_enter]
  rw [runActions_finished]
  · rfl
  · rw [entryOf_dc]; exact answersOk_env hok (startOf_env i s)

/-- An admitted operation whose n-th call (from 0) fails. -/
theorem exec_stopped {i : Instr} {s : State} {n : Nat} (hi : isOperation i = true) (hidle : idle s = true)
    (hwf : operandsOk i s = true) (ha : admitted (opOf i) s.life = true) (hp : premiseOf i s = none)
    (hn : n < (callsOf i s).length) (hf : failsAfter n s = true) :
    exec i s =
      .next (takeAbort (opOf i) (errorFor (transfersIn ((callsOf i s).take n)) (failingCall (callsOf i s) n))
        (stopped (programOf i s) n (startOf i s))) := by
  rw [exec_operation hi, hp, issue_admitted hidle hwf ha, programOf_enter]
  rw [runActions_stopped (n := n)]
  · simp only [conclude, entryOf_dc, entryOf_xfers]
    simp [callsOf, State.enter, startOf]
  · rw [entryOf_dc]; exact hn
  · exact failsAfter_env hf (startOf_env i s)

/-- What a host operation that answers a next state did. -/
theorem operation_next {i : Instr} {s t : State} (hi : isOperation i = true) (h : exec i s = .next t) :
    idle s = true ∧ operandsOk i s = true ∧
      ((admitted (opOf i) s.life = false ∧ t = s.setErr (.sequenceError .order)) ∨
       (admitted (opOf i) s.life = true ∧ premiseOf i s = none ∧
         ((answersOk (callsOf i s).length s = true ∧
             t = returnOk (opOf i) (finished (programOf i s) (startOf i s))) ∨
          (∃ n, n < (callsOf i s).length ∧ failsAfter n s = true ∧
             t = takeAbort (opOf i) (errorFor (transfersIn ((callsOf i s).take n)) (failingCall (callsOf i s) n))
               (stopped (programOf i s) n (startOf i s)))))) := by
  have h0 := h
  rw [exec_operation hi] at h
  obtain ⟨hidle, hwf, ⟨ha, ht⟩ | ⟨ha, hp, hbody⟩⟩ := issue_next h
  · exact ⟨hidle, hwf, .inl ⟨ha, ht⟩⟩
  · refine ⟨hidle, hwf, .inr ⟨ha, hp, ?_⟩⟩
    rcases runActions_total (programOf i s) (startOf i s) with ⟨hok, -⟩ | ⟨n, hn, hf, -⟩ | ⟨hh, -⟩
    · rw [startOf_dc] at hok
      have hok' := answersOk_env hok (startOf_env i s).symm
      rw [exec_finished hi hidle hwf ha hp hok'] at h0
      cases h0
      exact .inl ⟨hok', rfl⟩
    · rw [startOf_dc] at hn
      have hf' := failsAfter_env hf (startOf_env i s).symm
      rw [exec_stopped hi hidle hwf ha hp hn hf'] at h0
      cases h0
      exact .inr ⟨n, hn, hf', rfl⟩
    · rw [programOf_enter] at hbody
      rcases hbody with ⟨u, hu, -⟩ | ⟨e, u, hu, -⟩
      · rw [startOf] at hh; rw [hh] at hu; cases hu
      · rw [startOf] at hh; rw [hh] at hu; cases hu

/-! ### Frames -/

/-- The kind of a frame instruction. -/
def kindOf : Instr → FrameKind
  | .frameRateA => .frameRateA
  | .frameRateB => .frameRateB
  | .frameRateC => .frameRateC
  | .inversionCtrl => .inversionCtrl
  | .powerCtrl1 => .powerCtrl1
  | .powerCtrl2 => .powerCtrl2
  | .powerCtrl3 => .powerCtrl3
  | .powerCtrl4 => .powerCtrl4
  | .powerCtrl5 => .powerCtrl5
  | .vcomLevel => .vcomLevel
  | .gammaA => .gammaA
  | .gammaB => .gammaB
  | .pixelFormat => .pixelFormat
  | .orientation => .orientation
  | .colRange _ _ => .colRange
  | .rowRange _ _ => .rowRange
  | .memWrite => .memWrite
  | .sleepExit => .sleepExit
  | .displayOn => .displayOn
  | .hwReset | .init _ _ | .flush _ | .setWindow _ | .send _ _ => .memWrite

/-- Whether a frame instruction belongs to SET_WINDOW only or to the operation LIFE tells. -/
def inWindow (i : Instr) (s : State) : Bool :=
  match i with
  | .memWrite => true
  | .colRange _ _ | .rowRange _ _ => decide (s.life ≠ .resetDone)
  | .frameRateA | .frameRateB | .frameRateC | .inversionCtrl | .powerCtrl1 | .powerCtrl2 | .powerCtrl3 => false
  | .powerCtrl4 | .powerCtrl5 | .vcomLevel | .gammaA | .gammaB | .pixelFormat | .orientation => false
  | .sleepExit | .displayOn | .hwReset | .init _ _ | .flush _ | .setWindow _ | .send _ _ => false

/-- The operation that runs a frame. -/
def frameOpOf (i : Instr) (s : State) : HostOp := if inWindow i s then .setWindow else .init

/-- Whether a pre-seed frame's operands are the parameters'. -/
def preseedOperands (i : Instr) (s : State) : Bool :=
  match i with
  | .colRange xs xe => decide (xs = s.par.preseed.xs) && decide (xe = s.par.preseed.xe)
  | .rowRange ys ye => decide (ys = s.par.preseed.ys) && decide (ye = s.par.preseed.ye)
  | .frameRateA | .frameRateB | .frameRateC | .inversionCtrl | .powerCtrl1 | .powerCtrl2 | .powerCtrl3 => true
  | .powerCtrl4 | .powerCtrl5 | .vcomLevel | .gammaA | .gammaB | .pixelFormat | .orientation => true
  | .memWrite | .sleepExit | .displayOn | .hwReset | .init _ _ | .flush _ | .setWindow _ | .send _ _ => true

/-- Whether a frame stands where it can run. -/
def placeOf (i : Instr) (s : State) : Bool :=
  if inWindow i s then decide (s.life = .ready) else slotInPlace (kindOf i) s && preseedOperands i s

/-- The program of a SET_WINDOW frame. -/
def windowProgram (c : CmdBytes) : Instr → List Action
  | .colRange xs xe => colRangeActions c xs xe
  | .rowRange ys ye => rowRangeActions c ys ye
  | _ => memWriteActions c

/-- A frame's program. -/
def frameProgram (i : Instr) (s : State) : List Action :=
  if inWindow i s then windowProgram s.par.cmd i else slotActions s.par (slotOf s.par s.rot s.cord (kindOf i))

/-- Every frame is `runFrame` of its program. -/
theorem exec_frame {i : Instr} (hi : isOperation i = false) (s : State) :
    exec i s =
      runFrame (frameOpOf i s) (placeOf i s) (!inWindow i s || i.wf s.cfg s.rot) (frameProgram i s) s := by
  cases i
  case colRange xs xe =>
    show execColRange xs xe s = _
    rw [execColRange]
    by_cases hl : s.life = .resetDone
    · have hw : inWindow (.colRange xs xe) s = false := by show decide _ = false; simp [hl]
      rw [if_pos hl, frameOpOf, placeOf, frameProgram, hw, if_neg (by simp), if_neg (by simp), if_neg (by simp)]
      simp only [Bool.not_false, Bool.true_or, Bool.and_assoc]
      rfl
    · have hw : inWindow (.colRange xs xe) s = true := by show decide _ = true; simp [hl]
      rw [if_neg hl, frameOpOf, placeOf, frameProgram, hw, if_pos rfl, if_pos rfl, if_pos rfl]
      rfl
  case rowRange ys ye =>
    show execRowRange ys ye s = _
    rw [execRowRange]
    by_cases hl : s.life = .resetDone
    · have hw : inWindow (.rowRange ys ye) s = false := by show decide _ = false; simp [hl]
      rw [if_pos hl, frameOpOf, placeOf, frameProgram, hw, if_neg (by simp), if_neg (by simp), if_neg (by simp)]
      simp only [Bool.not_false, Bool.true_or, Bool.and_assoc]
      rfl
    · have hw : inWindow (.rowRange ys ye) s = true := by show decide _ = true; simp [hl]
      rw [if_neg hl, frameOpOf, placeOf, frameProgram, hw, if_pos rfl, if_pos rfl, if_pos rfl]
      rfl
  case hwReset => simp [isOperation] at hi
  case init => simp [isOperation] at hi
  case flush => simp [isOperation] at hi
  case setWindow => simp [isOperation] at hi
  case send => simp [isOperation] at hi
  case memWrite => rfl
  all_goals
    show runSlot _ s = runFrame .init (slotInPlace _ s && true) true _ s
    rw [Bool.and_true]
    rfl

/-- A frame outside the operation that runs it (R183). -/
theorem frame_misplaced {i : Instr} {s : State} (hi : isOperation i = false) (hn : noMeaning s = none)
    (hplace : (s.busy && placeOf i s) = false) : exec i s = .refused .frameNotIssuableAlone := by
  rw [exec_frame hi, runFrame, hn]
  simp only [hplace, Bool.not_false, if_true]

/-- A frame in its place whose range is ill-formed (R69). -/
theorem frame_illFormed {i : Instr} {s : State} (hi : isOperation i = false) (hp : inProgress s = true)
    (hplace : placeOf i s = true) (hwf : (!inWindow i s || i.wf s.cfg s.rot) = false) :
    exec i s = .refused .illFormedWindow := by
  obtain ⟨hn, hb⟩ := inProgress_iff.mp hp
  rw [exec_frame hi, runFrame, hn]
  simp only [hb, hplace, hwf, Bool.and_self, Bool.not_true, Bool.not_false, Bool.false_eq_true, if_false, if_true]

/-- The calls of a frame in progress. -/
def frameCallsOf (i : Instr) (s : State) : List Event := callsFrom s.dc (frameProgram i s)

/-- A frame in its place whose calls answer `ok`. -/
theorem frame_finished {i : Instr} {s : State} (hi : isOperation i = false) (hp : inProgress s = true)
    (hplace : placeOf i s = true) (hwf : (!inWindow i s || i.wf s.cfg s.rot) = true)
    (hok : answersOk (frameCallsOf i s).length s = true) :
    exec i s = .next (finished (frameProgram i s) s) := by
  rw [exec_frame hi, runFrame_inPlace hp hplace hwf, runActions_finished hok]

/-- A frame in its place whose n-th call (from 0) fails. -/
theorem frame_stopped {i : Instr} {s : State} {n : Nat} (hi : isOperation i = false) (hp : inProgress s = true)
    (hplace : placeOf i s = true) (hwf : (!inWindow i s || i.wf s.cfg s.rot) = true)
    (hn : n < (frameCallsOf i s).length) (hf : failsAfter n s = true) :
    exec i s =
      .next (takeAbort (frameOpOf i s)
        (errorFor (s.xfers + transfersIn ((frameCallsOf i s).take n)) (failingCall (frameCallsOf i s) n))
        (stopped (frameProgram i s) n s)) := by
  rw [exec_frame hi, runFrame_inPlace hp hplace hwf, runActions_stopped hn hf]
  rfl

/-- What a frame that answers a next state did. -/
theorem frame_next {i : Instr} {s t : State} (hi : isOperation i = false) (h : exec i s = .next t) :
    inProgress s = true ∧ placeOf i s = true ∧ (!inWindow i s || i.wf s.cfg s.rot) = true ∧
      ((answersOk (frameCallsOf i s).length s = true ∧ t = finished (frameProgram i s) s) ∨
       (∃ n, n < (frameCallsOf i s).length ∧ failsAfter n s = true ∧
          t = takeAbort (frameOpOf i s)
            (errorFor (s.xfers + transfersIn ((frameCallsOf i s).take n)) (failingCall (frameCallsOf i s) n))
            (stopped (frameProgram i s) n s))) := by
  have h0 := h
  rw [exec_frame hi] at h
  obtain ⟨hp, hplace, hwf, hr⟩ := runFrame_next h
  refine ⟨hp, hplace, hwf, ?_⟩
  rcases runActions_total (frameProgram i s) s with ⟨hok, -⟩ | ⟨n, hn, hf, -⟩ | ⟨hh, -⟩
  · rw [frame_finished hi hp hplace hwf hok] at h0
    cases h0
    exact .inl ⟨hok, rfl⟩
  · rw [frame_stopped hi hp hplace hwf hn hf] at h0
    cases h0
    exact .inr ⟨n, hn, hf, rfl⟩
  · rw [hh] at hr
    rcases hr with hr | ⟨e, u, hr, -⟩ <;> cases hr

end Sys2Proof.Machine
end

