-- ==== Sys2Proof/Laws/Initializer.lean ====
section
/-! SUPPORT. The calls of the frames, of the slots and of INITIALIZE, and what a part of INIT_TABLE does to STEP and WIN. -/

namespace Sys2Proof.Machine

open Sys2Proof

theorem callsFrom_sendActions (dc : Level) (cmd : Byte) (data : List Byte) :
    callsFrom dc (sendActions cmd data) = frameCalls ⟨cmd, data⟩ := by
  by_cases h : data = [] <;> simp [sendActions, cmdPhase, dataPhase, frameCalls, h, callsFrom, callOf, levelOf]

theorem callsFrom_mirrorActions (dc : Level) (p : Params) (k : FrameKind) : callsFrom dc (mirrorActions p k) = [] := by
  cases k <;> rfl

theorem callsFrom_delayActions (dc : Level) (ms : Nat) :
    callsFrom dc (delayActions ms) = if ms = 0 then [] else [.sleep ms] := by
  by_cases h : ms = 0 <;> simp [delayActions, h, callsFrom, callOf]

/-- The calls of a slot, as a row of Table 42-A. -/
theorem callsFrom_slotActions (dc : Level) (p : Params) (sl : Slot) :
    callsFrom dc (slotActions p sl) =
      frameCalls ⟨cmdOf p.cmd sl.kind, sl.data⟩ ++ (if sl.delay = 0 then [] else [.sleep sl.delay]) := by
  simp only [slotActions, callsFrom_append, callsFrom_sendActions, callsFrom_mirrorActions, callsFrom_delayActions,
    List.append_nil]
  simp [callsFrom, callOf]

/-- A row of Table 42-A as a slot of INIT_TABLE. -/
def SlotCase.slot (x : SlotCase) : Slot := { kind := kindOf x.instr, data := x.frame.data, delay := x.delay }

theorem slotCases_slot (p : Params) (rot : Rotation) (order : ColorOrder) :
    (slotCases p rot order).map SlotCase.slot = initTable p rot order := rfl

theorem slotCases_length (p : Params) (rot : Rotation) (order : ColorOrder) :
    (slotCases p rot order).length = 18 := rfl

theorem forall_slotCases {p : Params} {rot : Rotation} {order : ColorOrder} {P : SlotCase → Prop}
    (h : ∀ k : Fin 18, P ((slotCases p rot order)[k.val]'(by rw [slotCases_length]; exact k.isLt))) :
    ∀ x ∈ slotCases p rot order, P x := by
  intro x hx
  obtain ⟨k, hk, rfl⟩ := List.getElem_of_mem hx
  exact h ⟨k, by rw [← slotCases_length p rot order]; exact hk⟩

/-- Every row is the slot its kind says, with the command byte of its kind, and its number is its kind's. -/
theorem slotCase_fields {p : Params} {rot : Rotation} {order : ColorOrder} {x : SlotCase}
    (hx : x ∈ slotCases p rot order) :
    slotOf p rot order (kindOf x.instr) = x.slot ∧ cmdOf p.cmd (kindOf x.instr) = x.frame.cmd ∧
      slotKinds[x.number]? = some (kindOf x.instr) ∧ isOperation x.instr = false ∧ x.number < 18 := by
  revert x
  simp only [slotCases, List.forall_mem_cons, List.not_mem_nil, false_imp_iff, implies_true, and_true]
  refine ⟨?_, ?_, ?_, ?_, ?_, ?_, ?_, ?_, ?_, ?_, ?_, ?_, ?_, ?_, ?_, ?_, ?_, ?_⟩ <;>
    exact ⟨rfl, rfl, rfl, rfl, by decide⟩

theorem callsFrom_slotCase (dc : Level) {p : Params} {rot : Rotation} {order : ColorOrder} {x : SlotCase}
    (hx : x ∈ slotCases p rot order) :
    callsFrom dc (slotActions p (slotOf p rot order (kindOf x.instr))) = x.calls := by
  obtain ⟨h1, h2, -⟩ := slotCase_fields hx
  rw [callsFrom_slotActions, h1]
  simp only [SlotCase.slot, SlotCase.calls, h2]
  rfl

/-- The calls of INITIALIZE. -/
theorem callsFrom_initActions (dc : Level) (p : Params) (rot : Rotation) (order : ColorOrder) :
    callsFrom dc (initActions p rot order) = initCalls p rot order := by
  have hpart : ∀ (xs : List SlotCase), (∀ x ∈ xs, cmdOf p.cmd (kindOf x.instr) = x.frame.cmd) → ∀ dc,
      callsFrom dc ((xs.map SlotCase.slot).flatMap (slotActions p)) = xs.flatMap SlotCase.calls := by
    intro xs
    induction xs with
    | nil => intro _ _; rfl
    | cons x xs ih =>
      intro h dc
      simp only [List.map_cons, List.flatMap_cons, callsFrom_append, callsFrom_slotActions]
      rw [ih (fun y hy => h y (List.mem_cons_of_mem _ hy))]
      simp only [SlotCase.slot, SlotCase.calls, h x (List.mem_cons_self ..)]
      rfl
  rw [initActions, ← slotCases_slot, hpart _ (fun x hx => (slotCase_fields hx).2.1)]
  rfl

/-! ### A program up to a call -/

theorem untilCall_append (n : Nat) (as bs : List Action) (dc : Level) :
    untilCall n (as ++ bs) =
      if n < (callsFrom dc as).length then untilCall n as else as ++ untilCall (n - (callsFrom dc as).length) bs := by
  induction as generalizing n dc with
  | nil => simp [callsFrom]
  | cons a as ih =>
    by_cases hc : isCall a = true
    · obtain ⟨e, he⟩ := callOf_some (dc := dc) hc
      cases n with
      | zero => simp [untilCall, hc, callsFrom, he]
      | succ n =>
        simp only [List.cons_append, untilCall, hc, if_true, ih n (levelOf dc a), callsFrom, he, Option.toList_some,
          List.length_append, List.length_cons, List.length_nil]
        by_cases h : n < (callsFrom (levelOf dc a) as).length
        · rw [if_pos h, if_pos (by omega)]
        · rw [if_neg h, if_neg (by omega)]
          congr 3
          omega
    · have hc' : isCall a = false := by simpa using hc
      have he := callOf_none (dc := dc) hc'
      have hu : ∀ xs, untilCall n (a :: xs) = a :: untilCall n xs := by intro xs; cases n <;> simp [untilCall, hc']
      simp only [List.cons_append, hu, ih n (levelOf dc a), callsFrom, he, Option.toList_none, List.nil_append]
      split <;> rfl

/-- INITIALIZE up to its n-th call: the rows before the one that call belongs to, then a part of that row. -/
theorem untilCall_rows {p : Params} (n : Nat) (xs : List SlotCase)
    (hx : ∀ x ∈ xs, cmdOf p.cmd (kindOf x.instr) = x.frame.cmd) (hn : n < (xs.flatMap SlotCase.calls).length) :
    ∃ x m, xs[rowOfCall xs n]? = some x ∧ m < x.calls.length ∧
      untilCall n ((xs.map SlotCase.slot).flatMap (slotActions p)) =
        ((xs.take (rowOfCall xs n)).map SlotCase.slot).flatMap (slotActions p) ++
          untilCall m (slotActions p x.slot) := by
  induction xs generalizing n with
  | nil => simp at hn
  | cons x xs ih =>
    have hcalls : (callsFrom .low (slotActions p x.slot)) = x.calls := by
      rw [callsFrom_slotActions]
      simp only [SlotCase.slot, SlotCase.calls, hx x (List.mem_cons_self ..)]
      rfl
    simp only [List.map_cons, List.flatMap_cons, untilCall_append n _ _ .low, hcalls]
    by_cases h : n < x.calls.length
    · exact ⟨x, n, by simp [rowOfCall, h], h, by simp [rowOfCall, h]⟩
    · have hn' : n - x.calls.length < (xs.flatMap SlotCase.calls).length := by
        simp only [List.flatMap_cons, List.length_append] at hn; omega
      obtain ⟨y, m, h1, h2, h3⟩ := ih (n - x.calls.length) (fun y hy => hx y (List.mem_cons_of_mem _ hy)) hn'
      refine ⟨y, m, ?_, h2, ?_⟩
      · simp only [rowOfCall, if_neg h, Nat.add_comm 1, List.getElem?_cons_succ]; exact h1
      · simp only [rowOfCall, if_neg h, Nat.add_comm 1, List.take_succ_cons, List.map_cons, List.flatMap_cons,
          List.append_assoc, h3]

/-- Before its last call has answered, a slot has written neither STEP nor the mirror. -/
theorem untilCall_slot_quiet {p : Params} {rot : Rotation} {order : ColorOrder} {x : SlotCase} {m : Nat}
    (hx : x ∈ slotCases p rot order) (hm : m < x.calls.length) :
    ∀ a ∈ untilCall m (slotActions p x.slot), isCall a = true := by
  have hsend : ∀ (n : Nat) (cmd : Byte) (data : List Byte), ∀ a ∈ untilCall n (sendActions cmd data), isCall a = true := by
    intro n cmd data a ha
    have hall : ∀ b ∈ sendActions cmd data, isCall b = true := by
      by_cases h : data = [] <;> simp [sendActions, cmdPhase, dataPhase, h, isCall]
    have hsub : ∀ (as : List Action) (n : Nat), ∀ b ∈ untilCall n as, b ∈ as := by
      intro as
      induction as with
      | nil => intro n b hb; cases n <;> simp [untilCall] at hb
      | cons c cs ih =>
        intro n b hb
        cases n with
        | zero =>
          simp only [untilCall] at hb
          split at hb
          · simp at hb
          · rcases List.mem_cons.mp hb with rfl | hb
            · exact List.mem_cons_self ..
            · exact List.mem_cons_of_mem _ (ih _ _ hb)
        | succ n =>
          simp only [untilCall] at hb
          rcases List.mem_cons.mp hb with rfl | hb
          · exact List.mem_cons_self ..
          · split at hb <;> exact List.mem_cons_of_mem _ (ih _ _ hb)
    exact hall a (hsub _ _ a ha)
  have hquiet : x.delay = 0 ∨ mirrorActions p (kindOf x.instr) = [] := by
    have hdelay : x.delay = slotDelay p (kindOf x.instr) := (congrArg Slot.delay (slotCase_fields hx).1).symm
    rw [hdelay]
    cases kindOf x.instr <;> first | exact .inl rfl | exact .inr rfl
  simp only [SlotCase.calls, List.length_append] at hm
  have hcmd := (slotCase_fields hx).2.1
  have hframe : frameCalls ⟨x.frame.cmd, x.frame.data⟩ = frameCalls x.frame := rfl
  rcases hquiet with h0 | h0
  · simp only [slotActions, SlotCase.slot, h0, delayActions, if_true, List.append_nil, List.append_assoc]
    rw [untilCall_append m _ _ .low, callsFrom_sendActions, hcmd, hframe, if_pos]
    · exact hsend _ _ _
    · simpa [h0] using hm
  · simp only [slotActions, SlotCase.slot, h0, List.append_nil, List.append_assoc]
    rw [untilCall_append m _ _ .low, callsFrom_sendActions, hcmd, hframe]
    split
    · exact hsend _ _ _
    · rename_i hge
      intro a ha
      by_cases hd : x.delay = 0
      · simp [hd] at hm; exact absurd hm (by simpa using hge)
      · have hm' : m - (frameCalls x.frame).length = 0 := by
          simp [hd] at hm; simp at hge; omega
        rw [hm'] at ha
        simp only [delayActions, hd, if_false, List.singleton_append, untilCall, isCall, if_true, List.append_nil] at ha
        have hall : ∀ b ∈ sendActions x.frame.cmd x.frame.data, isCall b = true := by
          by_cases h : x.frame.data = [] <;> simp [sendActions, cmdPhase, dataPhase, h, isCall]
        exact hall a ha

/-- A row of Table 42-A while LIFE is RESET_DONE: its program, the operation that runs it, and where it stands. -/
theorem slotCase_place {s : State} {x : SlotCase} (hx : x ∈ slotCases s.par s.rot s.cord) (hl : s.life = .resetDone) :
    inWindow x.instr s = false ∧ frameProgram x.instr s = slotActions s.par x.slot ∧ frameOpOf x.instr s = .init ∧
      placeOf x.instr s = decide (s.step.toNat = x.number) := by
  obtain ⟨h1, -, h3, -, -⟩ := slotCase_fields hx
  have hw : inWindow x.instr s = false ∧ preseedOperands x.instr s = true := by
    clear h1 h3
    revert x
    simp only [slotCases, List.forall_mem_cons, List.not_mem_nil, false_imp_iff, implies_true, and_true]
    simp [inWindow, preseedOperands, hl]
  obtain ⟨hw, hpre⟩ := hw
  have hprog : frameProgram x.instr s = slotActions s.par (slotOf s.par s.rot s.cord (kindOf x.instr)) := by
    rw [frameProgram, if_neg (by rw [hw]; simp)]
  refine ⟨hw, by rw [hprog, h1], by rw [frameOpOf, hw]; rfl, ?_⟩
  rw [placeOf, if_neg (by rw [hw]; simp), hpre, Bool.and_true, slotInPlace, hl, decide_eq_true rfl, Bool.true_and]
  have hnd : slotKinds.Nodup := by decide
  apply decide_eq_decide.mpr
  constructor
  · intro h
    have hlt : s.step.toNat < slotKinds.length := (List.getElem?_eq_some_iff.mp h).1
    exact (List.getElem?_inj hlt hnd).mp (h.trans h3.symm)
  · intro h
    rw [h, h3]

theorem winFrom_calls {as : List Action} (h : ∀ a ∈ as, isCall a = true) (w : Window) : winFrom w as = w := by
  induction as generalizing w with
  | nil => rfl
  | cons a as ih =>
    rw [winFrom_cons, ih (fun b hb => h b (List.mem_cons_of_mem _ hb))]
    have := h a (List.mem_cons_self ..)
    cases a <;> simp_all [winStep, isCall]

theorem winValidFrom_calls {as : List Action} (h : ∀ a ∈ as, isCall a = true) (b : Bool) : winValidFrom b as = b := by
  induction as generalizing b with
  | nil => rfl
  | cons a as ih =>
    rw [winValidFrom_cons, ih (fun b hb => h b (List.mem_cons_of_mem _ hb))]
    have := h a (List.mem_cons_self ..)
    cases a <;> simp_all [winValidStep, isCall]

theorem stepFrom_calls {as : List Action} (h : ∀ a ∈ as, isCall a = true) (k : BitVec 5) : stepFrom k as = k :=
  stepFrom_of_still (fun a ha he => by have := h a ha; simp [he, isCall] at this) k

theorem pixelsFrom_calls {as : List Action} (h : ∀ a ∈ as, isCall a = true) (fb : Memory) (x : List Byte × Nat) :
    pixelsFrom fb x as = x :=
  pixelsFrom_of_still (fun a ha y he => by have := h a ha; simp [he, isCall] at this) x

theorem sendActions_calls (cmd : Byte) (data : List Byte) : ∀ a ∈ sendActions cmd data, isCall a = true := by
  by_cases h : data = [] <;> simp [sendActions, cmdPhase, dataPhase, h, isCall]

theorem delayActions_calls (ms : Nat) : ∀ a ∈ delayActions ms, isCall a = true := by
  by_cases h : ms = 0 <;> simp [delayActions, h, isCall]

/-- A whole slot leaves WIN as its mirror says. -/
theorem winFrom_slotActions (p : Params) (sl : Slot) (w : Window) :
    winFrom w (slotActions p sl) = winFrom w (mirrorActions p sl.kind) := by
  simp only [slotActions, winFrom_append, winFrom_calls (sendActions_calls _ _), winFrom_calls (delayActions_calls _)]
  rfl

theorem winValidFrom_slotActions (p : Params) (sl : Slot) (b : Bool) :
    winValidFrom b (slotActions p sl) = winValidFrom b (mirrorActions p sl.kind) := by
  simp only [slotActions, winValidFrom_append, winValidFrom_calls (sendActions_calls _ _),
    winValidFrom_calls (delayActions_calls _)]
  rfl

theorem pixelsFrom_slotActions (p : Params) (sl : Slot) (fb : Memory) (x : List Byte × Nat) :
    pixelsFrom fb x (slotActions p sl) = x := by
  have hm : ∀ a ∈ mirrorActions p sl.kind, ∀ y, a ≠ .pushPixel y := by cases sl.kind <;> simp [mirrorActions]
  simp only [slotActions, pixelsFrom_append, pixelsFrom_calls (sendActions_calls _ _),
    pixelsFrom_calls (delayActions_calls _), pixelsFrom_of_still hm]
  rfl

theorem winFrom_kinds (p : Params) (rot : Rotation) (order : ColorOrder) (ks : List FrameKind) (w : Window) :
    winFrom w ((ks.map (slotOf p rot order)).flatMap (slotActions p)) =
      ks.foldl (fun v k => winFrom v (mirrorActions p k)) w := by
  induction ks generalizing w with
  | nil => rfl
  | cons k ks ih =>
    simp only [List.map_cons, List.flatMap_cons, winFrom_append, winFrom_slotActions, ih, List.foldl_cons]
    rfl

/-- The first k slots leave WIN as it was up to the pre-seed, and then as far as it is programmed. -/
theorem winFrom_slots (p : Params) (rot : Rotation) (order : ColorOrder) (k : Nat) (hk : k ≤ 18) (w : Window) :
    winFrom w ((((slotCases p rot order).take k).map SlotCase.slot).flatMap (slotActions p)) =
      if k ≤ 14 then w
      else if k = 15 then { w with xs := p.preseed.xs, xe := p.preseed.xe }
      else p.preseed := by
  rw [List.map_take, slotCases_slot, initTable, ← List.map_take, winFrom_kinds]
  interval_cases k <;> rfl

theorem winValidFrom_slots (p : Params) (rot : Rotation) (order : ColorOrder) (b : Bool) :
    winValidFrom b (initActions p rot order) = true := by
  simp [initActions, initTable, slotKinds, slotOf, winValidFrom_append, winValidFrom_slotActions, mirrorActions,
    winValidStep]

theorem stepFrom_slots {p : Params} (xs : List SlotCase) (k : BitVec 5) :
    stepFrom k ((xs.map SlotCase.slot).flatMap (slotActions p)) = k + BitVec.ofNat 5 xs.length := by
  induction xs generalizing k with
  | nil => simp
  | cons x xs ih =>
    simp only [List.map_cons, List.flatMap_cons, stepFrom_append, slotActions_step, ih, List.length_cons]
    rw [BitVec.add_assoc]
    congr 1
    apply BitVec.eq_of_toNat_eq
    simp [Nat.add_comm]

theorem pixelsFrom_slots {p : Params} (xs : List SlotCase) (fb : Memory) (y : List Byte × Nat) :
    pixelsFrom fb y ((xs.map SlotCase.slot).flatMap (slotActions p)) = y := by
  induction xs generalizing y with
  | nil => rfl
  | cons x xs ih => simp only [List.map_cons, List.flatMap_cons, pixelsFrom_append, pixelsFrom_slotActions, ih]

theorem rowOfCall_lt (xs : List SlotCase) (n : Nat) (hn : n < (xs.flatMap SlotCase.calls).length) :
    rowOfCall xs n < xs.length := by
  induction xs generalizing n with
  | nil => simp at hn
  | cons x xs ih =>
    simp only [rowOfCall]
    split
    · simp
    · simp only [List.flatMap_cons, List.length_append] at hn
      have := ih (n - x.calls.length) (by omega)
      simp; omega

end Sys2Proof.Machine
end

