-- ==== Sys2Proof/Laws/Memory.lean ====
section
/-! SUPPORT. FB space: a read after a write, and that every operation keeps the canonical form. -/

namespace Sys2Proof.Machine

open Sys2Proof

/-- Every listed index is above `a`. -/
def above (a : Nat) (m : Memory) : Prop := ∀ c ∈ m, a < c.1

theorem memoryWf_cons (c : Nat × Half) (m : Memory) :
    Memory.wf (c :: m) = true ↔ c.2 ≠ blankPixel ∧ above c.1 m ∧ Memory.wf m = true := by
  induction m generalizing c with
  | nil => simp [Memory.wf, above]
  | cons d rest ih =>
    simp only [Memory.wf, Bool.and_eq_true, bne_iff_ne, decide_eq_true_eq]
    constructor
    · rintro ⟨⟨hc, hlt⟩, hd⟩
      refine ⟨hc, ?_, hd⟩
      intro x hx
      rcases List.mem_cons.mp hx with rfl | hx
      · exact hlt
      · exact hlt.trans (((ih d).mp hd).2.1 x hx)
    · rintro ⟨hc, habove, hd⟩
      exact ⟨⟨hc, habove d (by simp)⟩, hd⟩

theorem erasePixel_cons (c : Nat × Half) (m : Memory) (a : Nat) :
    erasePixel (c :: m) a = if c.1 = a then erasePixel m a else c :: erasePixel m a := by
  by_cases h : c.1 = a <;> simp [erasePixel, h]

theorem mem_of_mem_erasePixel {m : Memory} {a : Nat} {c : Nat × Half} (h : c ∈ erasePixel m a) : c ∈ m ∧ c.1 ≠ a := by
  simpa [erasePixel] using h

theorem erasePixel_wf {m : Memory} (h : Memory.wf m = true) (a : Nat) : Memory.wf (erasePixel m a) = true := by
  induction m with
  | nil => simp [erasePixel, Memory.wf]
  | cons c rest ih =>
    obtain ⟨hc, habove, hrest⟩ := (memoryWf_cons c rest).mp h
    rw [erasePixel_cons]
    split
    · exact ih hrest
    · exact (memoryWf_cons _ _).mpr ⟨hc, fun x hx => habove x (mem_of_mem_erasePixel hx).1, ih hrest⟩

theorem mem_insertPixel {m : Memory} {a : Nat} {v : Half} {c : Nat × Half} (h : c ∈ insertPixel m a v) :
    c = (a, v) ∨ c ∈ m := by
  induction m with
  | nil => simpa [insertPixel] using h
  | cons d rest ih =>
    obtain ⟨b, w⟩ := d
    simp only [insertPixel] at h
    split at h
    · simpa using h
    · rcases List.mem_cons.mp h with rfl | h
      · simp
      · rcases ih h with h | h
        · exact .inl h
        · exact .inr (List.mem_cons_of_mem _ h)

theorem insertPixel_wf {m : Memory} (h : Memory.wf m = true) {a : Nat} {v : Half} (hv : v ≠ blankPixel)
    (ha : ∀ c ∈ m, c.1 ≠ a) : Memory.wf (insertPixel m a v) = true := by
  induction m with
  | nil => simpa [insertPixel, Memory.wf] using hv
  | cons d rest ih =>
    obtain ⟨b, w⟩ := d
    obtain ⟨hd, habove, hrest⟩ := (memoryWf_cons _ _).mp h
    simp only [insertPixel]
    split
    · rename_i hlt
      refine (memoryWf_cons _ _).mpr ⟨hv, ?_, h⟩
      intro x hx
      rcases List.mem_cons.mp hx with rfl | hx
      · exact hlt
      · exact hlt.trans (habove x hx)
    · rename_i hlt
      refine (memoryWf_cons _ _).mpr ⟨hd, ?_, ih hrest fun c hc => ha c (List.mem_cons_of_mem _ hc)⟩
      intro x hx
      have hba : b ≠ a := ha (b, w) (by simp)
      rcases mem_insertPixel hx with rfl | hx
      · show b < a; omega
      · exact habove x hx

/-- Writing a pixel keeps the canonical form. -/
theorem writePixel_wf {m : Memory} (h : Memory.wf m = true) (a : Nat) (v : Half) :
    Memory.wf (writePixel m a v) = true := by
  unfold writePixel
  split
  · exact erasePixel_wf h a
  · rename_i hv
    exact insertPixel_wf (erasePixel_wf h a) hv fun c hc => (mem_of_mem_erasePixel hc).2

theorem readPixel_erasePixel (m : Memory) (a b : Nat) :
    readPixel (erasePixel m a) b = if b = a then blankPixel else readPixel m b := by
  induction m with
  | nil => simp [erasePixel, readPixel]
  | cons c rest ih =>
    rw [erasePixel_cons]
    by_cases hca : c.1 = a
    · rw [if_pos hca, ih]
      by_cases hb : b = a
      · simp [hb]
      · have : c.1 ≠ b := fun h => hb (h ▸ hca)
        simp [readPixel, hb, this]
    · rw [if_neg hca]
      by_cases hb : b = a
      · subst hb
        simp [readPixel, hca, ih]
      · simp [readPixel, ih, hb]

theorem readPixel_insertPixel (m : Memory) (a b : Nat) (v : Half) (ha : ∀ c ∈ m, c.1 ≠ a) :
    readPixel (insertPixel m a v) b = if b = a then v else readPixel m b := by
  induction m with
  | nil =>
    by_cases h : a = b
    · simp [insertPixel, readPixel, h]
    · have h' : b ≠ a := Ne.symm h
      simp [insertPixel, readPixel, h, h']
  | cons d rest ih =>
    obtain ⟨x, w⟩ := d
    have hxa : x ≠ a := ha (x, w) (by simp)
    have ih := ih fun c hc => ha c (List.mem_cons_of_mem _ hc)
    simp only [insertPixel]
    split
    · by_cases h : a = b
      · simp [readPixel, h]
      · have h' : b ≠ a := Ne.symm h
        simp [readPixel, h, h']
    · by_cases hxb : x = b
      · subst hxb
        simp [readPixel, hxa]
      · simp [readPixel, hxb, ih]

/-- A read after a write: the written pixel at its index, every other pixel as before. -/
theorem readPixel_writePixel (m : Memory) (a b : Nat) (v : Half) :
    readPixel (writePixel m a v) b = if b = a then v else readPixel m b := by
  unfold writePixel
  split
  · rename_i hv
    rw [readPixel_erasePixel, hv]
  · rw [readPixel_insertPixel _ _ _ _ fun c hc => (mem_of_mem_erasePixel hc).2, readPixel_erasePixel]
    split <;> simp_all

end Sys2Proof.Machine
end

