-- ==== Sys2Proof/Laws/PerInstr.lean ====
section
/-! SUPPORT. Statements made per instruction (LAWS.json): `TableRow`, that an instruction's own encoding has the first byte
which its row of spec/opcode_table.json fixes under the row's mask, at the row's level. -/

namespace Sys2Proof.Laws.TableRow

open Sys2Proof

/-- The encoding of an instruction, with the default command bytes, lies in its row of spec/opcode_table.json. -/
def Statement (i : Instr) : Prop := (tableRow i).fits (encode defaultCmd i) = true

theorem hwReset : Statement .hwReset := by simp [Statement, tableRow, encode, Sys2Proof.TableRow.fits]

theorem init (rot : Rotation) (order : ColorOrder) : Statement (.init rot order) := by simp [Statement, tableRow, encode, Sys2Proof.TableRow.fits]

theorem flush (w : Window) : Statement (.flush w) := by simp [Statement, tableRow, encode, Sys2Proof.TableRow.fits]

theorem setWindow (w : Window) : Statement (.setWindow w) := by simp [Statement, tableRow, encode, Sys2Proof.TableRow.fits]

theorem send (cmd : Byte) (data : List Byte) : Statement (.send cmd data) := by simp [Statement, tableRow, encode, Sys2Proof.TableRow.fits]

theorem frameRateA : Statement .frameRateA := by simp [Statement, tableRow, encode, Sys2Proof.TableRow.fits, defaultCmd]

theorem frameRateB : Statement .frameRateB := by simp [Statement, tableRow, encode, Sys2Proof.TableRow.fits, defaultCmd]

theorem frameRateC : Statement .frameRateC := by simp [Statement, tableRow, encode, Sys2Proof.TableRow.fits, defaultCmd]

theorem inversionCtrl : Statement .inversionCtrl := by simp [Statement, tableRow, encode, Sys2Proof.TableRow.fits, defaultCmd]

theorem powerCtrl1 : Statement .powerCtrl1 := by simp [Statement, tableRow, encode, Sys2Proof.TableRow.fits, defaultCmd]

theorem powerCtrl2 : Statement .powerCtrl2 := by simp [Statement, tableRow, encode, Sys2Proof.TableRow.fits, defaultCmd]

theorem powerCtrl3 : Statement .powerCtrl3 := by simp [Statement, tableRow, encode, Sys2Proof.TableRow.fits, defaultCmd]

theorem powerCtrl4 : Statement .powerCtrl4 := by simp [Statement, tableRow, encode, Sys2Proof.TableRow.fits, defaultCmd]

theorem powerCtrl5 : Statement .powerCtrl5 := by simp [Statement, tableRow, encode, Sys2Proof.TableRow.fits, defaultCmd]

theorem vcomLevel : Statement .vcomLevel := by simp [Statement, tableRow, encode, Sys2Proof.TableRow.fits, defaultCmd]

theorem gammaA : Statement .gammaA := by simp [Statement, tableRow, encode, Sys2Proof.TableRow.fits, defaultCmd]

theorem gammaB : Statement .gammaB := by simp [Statement, tableRow, encode, Sys2Proof.TableRow.fits, defaultCmd]

theorem pixelFormat : Statement .pixelFormat := by simp [Statement, tableRow, encode, Sys2Proof.TableRow.fits, defaultCmd]

theorem orientation : Statement .orientation := by simp [Statement, tableRow, encode, Sys2Proof.TableRow.fits, defaultCmd]

theorem colRange (xs xe : Half) : Statement (.colRange xs xe) := by simp [Statement, tableRow, encode, Sys2Proof.TableRow.fits, defaultCmd]

theorem rowRange (ys ye : Half) : Statement (.rowRange ys ye) := by simp [Statement, tableRow, encode, Sys2Proof.TableRow.fits, defaultCmd]

theorem memWrite : Statement .memWrite := by simp [Statement, tableRow, encode, Sys2Proof.TableRow.fits, defaultCmd]

theorem sleepExit : Statement .sleepExit := by simp [Statement, tableRow, encode, Sys2Proof.TableRow.fits, defaultCmd]

theorem displayOn : Statement .displayOn := by simp [Statement, tableRow, encode, Sys2Proof.TableRow.fits, defaultCmd]

end Sys2Proof.Laws.TableRow
end

