-- ==== Sys2Proof/Laws/Window.lean ====
section
/-! SUPPORT. SET_WINDOW and its frames: their calls, where they can run, and how far a program that stops has written WIN. -/

namespace Sys2Proof.Machine

open Sys2Proof

theorem callsFrom_colRange (dc : Level) (c : CmdBytes) (a b : Half) :
    callsFrom dc (colRangeActions c a b) = frameCalls ⟨c.colRange, rangeData a b⟩ := by
  simp [colRangeActions, callsFrom_append, callsFrom_sendActions, callsFrom, callOf, cmdOf]

theorem callsFrom_rowRange (dc : Level) (c : CmdBytes) (a b : Half) :
    callsFrom dc (rowRangeActions c a b) = frameCalls ⟨c.rowRange, rangeData a b⟩ := by
  simp [rowRangeActions, callsFrom_append, callsFrom_sendActions, callsFrom, callOf, cmdOf]

theorem callsFrom_memWrite (dc : Level) (c : CmdBytes) :
    callsFrom dc (memWriteActions c) = frameCalls ⟨c.memWrite, []⟩ := by
  simp [memWriteActions, callsFrom_sendActions, cmdOf]

/-- The calls of SET_WINDOW. -/
theorem callsFrom_setWindow (dc : Level) (c : CmdBytes) (w : Window) :
    callsFrom dc (setWindowActions c w) = setWindowCalls c w := by
  simp [setWindowActions, setWindowCalls, callsFrom_append, callsFrom, callOf, callsFrom_colRange, callsFrom_rowRange,
    callsFrom_memWrite]

@[simp] theorem setWindowCalls_length (c : CmdBytes) (w : Window) : (setWindowCalls c w).length = 10 := by
  simp [setWindowCalls, frameCalls, rangeData, be16]

/-- The actions of SET_WINDOW, written out. -/
theorem setWindowActions_eq (c : CmdBytes) (w : Window) :
    setWindowActions c w =
      [.setWinValid false, .dc .low, .xfer [c.colRange], .dc .high, .xfer (rangeData w.xs w.xe), .setCols w.xs w.xe,
       .dc .low, .xfer [c.rowRange], .dc .high, .xfer (rangeData w.ys w.ye), .setRows w.ys w.ye, .setWinValid true,
       .dc .low, .xfer [c.memWrite]] := by
  simp [setWindowActions, colRangeActions, rowRangeActions, memWriteActions, sendActions, cmdPhase, dataPhase,
    rangeData, be16, cmdOf]

/-- The calls of SET_WINDOW, written out. -/
theorem setWindowCalls_eq (c : CmdBytes) (w : Window) :
    setWindowCalls c w =
      [.gpioDc .low, .busXfer .low [c.colRange], .gpioDc .high, .busXfer .high (rangeData w.xs w.xe),
       .gpioDc .low, .busXfer .low [c.rowRange], .gpioDc .high, .busXfer .high (rangeData w.ys w.ye),
       .gpioDc .low, .busXfer .low [c.memWrite]] := by
  simp [setWindowCalls, frameCalls, rangeData, be16]

/-- WIN is written axis by axis as each range frame completes (R204). -/
theorem winFrom_setWindow_until {n : Nat} (hn : n < 10) (c : CmdBytes) (w v : Window) :
    winFrom v (untilCall n (setWindowActions c w)) =
      if n < 4 then v else if n < 8 then { v with xs := w.xs, xe := w.xe } else w := by
  rw [setWindowActions_eq]
  interval_cases n <;> rfl

theorem stepFrom_setWindow_until {n : Nat} (hn : n < 10) (c : CmdBytes) (w : Window) (k : BitVec 5) :
    stepFrom k (untilCall n (setWindowActions c w)) = k := by
  rw [setWindowActions_eq]
  interval_cases n <;> rfl

theorem pixelsFrom_setWindow_until {n : Nat} (hn : n < 10) (c : CmdBytes) (w : Window) (fb : Memory)
    (x : List Byte × Nat) : pixelsFrom fb x (untilCall n (setWindowActions c w)) = x := by
  rw [setWindowActions_eq]
  interval_cases n <;> rfl

theorem winFrom_setWindow (c : CmdBytes) (w v : Window) : winFrom v (setWindowActions c w) = w := by
  rw [setWindowActions_eq]; rfl

theorem winValidFrom_setWindow (c : CmdBytes) (w : Window) (b : Bool) :
    winValidFrom b (setWindowActions c w) = true := by
  rw [setWindowActions_eq]; rfl

theorem stepFrom_setWindow (c : CmdBytes) (w : Window) (k : BitVec 5) : stepFrom k (setWindowActions c w) = k := by
  rw [setWindowActions_eq]; rfl

theorem pixelsFrom_setWindow (c : CmdBytes) (w : Window) (fb : Memory) (x : List Byte × Nat) :
    pixelsFrom fb x (setWindowActions c w) = x := by
  rw [setWindowActions_eq]; rfl

/-- Calls among which no line drive of the reset line is. -/
theorem resetLineAfter_of_none {es : List Event} (h : ∀ e ∈ es, ∀ m, e ≠ .gpioRst m) (l : ResetLevel) :
    resetLineAfter l es = l := by
  induction es generalizing l with
  | nil => rfl
  | cons e es ih =>
    have ih' := fun l => ih (fun x hx => h x (List.mem_cons_of_mem _ hx)) l
    have := h e (List.mem_cons_self ..)
    simp only [resetLineAfter, List.foldl_cons] at *
    cases e <;> simp_all

/-- Calls among which no `Sleep` is. -/
theorem elapsed_of_none {es : List Event} (h : ∀ e ∈ es, ∀ n, e ≠ .sleep n) (env : List Answer) : elapsed es env = 0 := by
  induction es generalizing env with
  | nil => rfl
  | cons e es ih =>
    have ih' := fun env => ih (fun x hx => h x (List.mem_cons_of_mem _ hx)) env
    have := h e (List.mem_cons_self ..)
    cases e <;> simp_all [elapsed]

theorem mem_frameCalls {f : Frame} {e : Event} (h : e ∈ frameCalls f) :
    (∃ l, e = .gpioDc l) ∨ (∃ l bs, e = .busXfer l bs) := by
  simp only [frameCalls] at h
  split at h <;> simp at h <;> aesop

theorem mem_setWindowCalls {c : CmdBytes} {w : Window} {e : Event} (h : e ∈ setWindowCalls c w) :
    (∃ l, e = .gpioDc l) ∨ (∃ l bs, e = .busXfer l bs) := by
  simp only [setWindowCalls, List.mem_append] at h
  rcases h with (h | h) | h <;> exact mem_frameCalls h

theorem mem_untilCall {as : List Action} {n : Nat} {a : Action} (h : a ∈ untilCall n as) : a ∈ as := by
  induction as generalizing n with
  | nil => cases n <;> simp [untilCall] at h
  | cons c cs ih =>
    cases n with
    | zero =>
      simp only [untilCall] at h
      split at h
      · simp at h
      · rcases List.mem_cons.mp h with rfl | h
        · exact List.mem_cons_self ..
        · exact List.mem_cons_of_mem _ (ih h)
    | succ n =>
      simp only [untilCall] at h
      rcases List.mem_cons.mp h with rfl | h
      · exact List.mem_cons_self ..
      · split at h <;> exact List.mem_cons_of_mem _ (ih h)

/-- The three frames of a SET_WINDOW in progress (LIFE = READY) run in its place. -/
theorem windowFrame_place {i : Instr} {s : State} (hl : s.life = .ready)
    (h : (∃ a b, i = .colRange a b) ∨ (∃ a b, i = .rowRange a b) ∨ i = .memWrite) :
    inWindow i s = true ∧ placeOf i s = true ∧ isOperation i = false ∧ frameOpOf i s = .setWindow ∧
      frameProgram i s = windowProgram s.par.cmd i := by
  have h1 : inWindow i s = true := by rcases h with ⟨a, b, rfl⟩ | ⟨a, b, rfl⟩ | rfl <;> simp [inWindow, hl]
  refine ⟨h1, by rw [placeOf, if_pos h1]; simp [hl], ?_, by rw [frameOpOf, if_pos h1],
    by rw [frameProgram, if_pos h1]⟩
  rcases h with ⟨a, b, rfl⟩ | ⟨a, b, rfl⟩ | rfl <;> rfl

end Sys2Proof.Machine
end

