-- ==== Sys2Proof/Laws/Pixels.lean ====
section
/-! SUPPORT. The pixel pipeline's lists: the chunks of a payload, the pixels of a window in their order, and FLUSH's
program with its calls. -/

namespace Sys2Proof.Machine

open Sys2Proof

/-! ### Chunks -/

theorem chunksUpTo_flatten {m : Nat} (hm : 1 ≤ m) (n : Nat) (bs : List Byte) (h : bs.length ≤ n) :
    (chunksUpTo n m bs).flatten = bs := by
  induction n generalizing bs with
  | zero => cases bs <;> simp_all [chunksUpTo]
  | succ n ih =>
    cases bs with
    | nil => rfl
    | cons b bs =>
      have hlen : ((b :: bs).drop m).length ≤ n := by simp at h ⊢; omega
      simp only [chunksUpTo, List.flatten_cons, ih _ hlen, List.take_append_drop]

theorem chunksUpTo_ne_nil {m : Nat} (hm : 1 ≤ m) (n : Nat) (bs : List Byte) : ∀ c ∈ chunksUpTo n m bs, c ≠ [] := by
  induction n generalizing bs with
  | zero => simp [chunksUpTo]
  | succ n ih =>
    cases bs with
    | nil => simp [chunksUpTo]
    | cons b bs =>
      intro c hc
      simp only [chunksUpTo, List.mem_cons] at hc
      rcases hc with rfl | hc
      · cases m <;> simp at hm ⊢
      · exact ih _ c hc

theorem chunksUpTo_length {m : Nat} (hm : 1 ≤ m) (n : Nat) (bs : List Byte) (h : bs.length ≤ n) :
    (chunksUpTo n m bs).length = (bs.length + m - 1) / m := by
  induction n generalizing bs with
  | zero =>
    have : bs = [] := by cases bs <;> simp_all
    subst this
    simp only [chunksUpTo, List.length_nil, Nat.zero_add]
    exact (Nat.div_eq_of_lt (by omega)).symm
  | succ n ih =>
    cases bs with
    | nil =>
      simp only [chunksUpTo, List.length_nil, Nat.zero_add]
      exact (Nat.div_eq_of_lt (by omega)).symm
    | cons b bs =>
      have hlen : ((b :: bs).drop m).length ≤ n := by simp at h ⊢; omega
      simp only [chunksUpTo, List.length_cons, ih _ hlen, List.length_drop]
      by_cases hle : bs.length + 1 ≤ m
      · have h1 : (bs.length + 1 - m + m - 1) / m = 0 := Nat.div_eq_of_lt (by omega)
        have h2 : (bs.length + 1 + m - 1) / m = 1 := by
          rw [Nat.div_eq_iff (by omega)]; omega
        rw [h1, h2]
      · have : bs.length + 1 + m - 1 = (bs.length + 1 - m + m - 1) + m := by omega
        rw [this, Nat.add_div_right _ (by omega)]

theorem chunksUpTo_full {m : Nat} (hm : 1 ≤ m) (n : Nat) (bs : List Byte) (h : bs.length ≤ n) :
    ∀ c ∈ (chunksUpTo n m bs).dropLast, c.length = m := by
  induction n generalizing bs with
  | zero => simp [chunksUpTo]
  | succ n ih =>
    cases bs with
    | nil => simp [chunksUpTo]
    | cons b bs =>
      have hlen : ((b :: bs).drop m).length ≤ n := by simp at h ⊢; omega
      intro c hc
      simp only [chunksUpTo] at hc
      cases hrest : chunksUpTo n m ((b :: bs).drop m) with
      | nil => simp [hrest] at hc
      | cons d ds =>
        rw [hrest, List.dropLast_cons_of_ne_nil (by simp)] at hc
        rcases List.mem_cons.mp hc with rfl | hc
        · have hne : (b :: bs).drop m ≠ [] := by
            intro he
            rw [he] at hrest
            cases n <;> simp [chunksUpTo] at hrest
          have hlt : m < (b :: bs).length := by
            by_contra hcon
            exact hne (List.drop_eq_nil_iff.mpr (by omega))
          rw [List.length_take]
          omega
        · exact ih _ hlen c (by rw [hrest]; exact hc)

theorem chunks_flatten {limit : Option Nat} (hm : ∀ m, limit = some m → 1 ≤ m) (bs : List Byte) :
    (chunks limit bs).flatten = bs := by
  cases limit with
  | some m => exact chunksUpTo_flatten (hm m rfl) _ _ le_rfl
  | none =>
    cases bs with
    | nil => rfl
    | cons b bs => exact chunksUpTo_flatten (by simp) _ _ le_rfl

theorem chunks_ne_nil {limit : Option Nat} (hm : ∀ m, limit = some m → 1 ≤ m) (bs : List Byte) :
    ∀ c ∈ chunks limit bs, c ≠ [] := by
  cases limit with
  | some m => exact chunksUpTo_ne_nil (hm m rfl) _ _
  | none =>
    cases bs with
    | nil => simp [chunks, chunksUpTo]
    | cons b bs => exact chunksUpTo_ne_nil (by simp) _ _

/-- No limit: one transfer (R218). -/
theorem chunks_none {bs : List Byte} (h : bs ≠ []) : chunks none bs = [bs] := by
  cases bs with
  | nil => exact absurd rfl h
  | cons b bs =>
    have : chunksUpTo bs.length (bs.length + 1) [] = [] := by cases bs.length <;> rfl
    simp [chunks, chunksUpTo, this]

/-! ### The pixels of a window -/

/-- A row-major walk of h rows of w columns, as one walk over h·w indices. -/
theorem rows_eq {α : Type} {w : Nat} (hw : 0 < w) (h : Nat) (f : Nat → Nat → α) :
    ((List.range h).flatMap fun r => (List.range w).map (f r)) =
      (List.range (h * w)).map fun k => f (k / w) (k % w) := by
  induction h with
  | zero => simp
  | succ h ih =>
    rw [List.range_succ, List.flatMap_append, ih, Nat.succ_mul, List.range_add, List.map_append]
    congr 1
    simp only [List.flatMap_singleton, List.map_map]
    apply List.map_congr_left
    intro c hc
    have hlt : c < w := List.mem_range.mp hc
    have h1 : (h * w + c) / w = h := by
      rw [Nat.add_comm, Nat.add_mul_div_right _ _ hw, Nat.div_eq_of_lt hlt, Nat.zero_add]
    have h2 : (h * w + c) % w = c := by
      rw [Nat.add_comm, Nat.add_mul_mod_self_right, Nat.mod_eq_of_lt hlt]
    simp [h1, h2]

theorem windowWidth_pos (w : Window) : 0 < windowWidth w := Nat.succ_pos _
theorem windowHeight_pos (w : Window) : 0 < windowHeight w := Nat.succ_pos _

/-- The pixel indices of a window, the k-th first by column, then by row (R216). -/
theorem windowAddresses_eq (g : Cfg) (rot : Rotation) (w : Window) :
    windowAddresses g rot w =
      (List.range (windowWidth w * windowHeight w)).map fun k =>
        pixelAddress g rot (w.xs.toNat + k % windowWidth w) (w.ys.toNat + k / windowWidth w) := by
  rw [windowAddresses, rows_eq (windowWidth_pos w), Nat.mul_comm]

@[simp] theorem windowAddresses_length (g : Cfg) (rot : Rotation) (w : Window) :
    (windowAddresses g rot w).length = windowWidth w * windowHeight w := by
  simp [windowAddresses_eq]

/-- What SERIALIZE leaves in TXBUF is the pixel payload (R217). -/
theorem serialized_window (s : State) (w : Window) :
    serialized s.fb (windowAddresses s.cfg s.rot w) = flushPayload s w := by
  simp [serialized, windowAddresses_eq, flushPayload, flushPixel, List.flatMap_map]

@[simp] theorem flushPayload_length (s : State) (w : Window) :
    (flushPayload s w).length = 2 * (windowWidth w * windowHeight w) := by
  have : ∀ (n : Nat) (f : Nat → Half), ((List.range n).flatMap fun k => be16 (f k)).length = 2 * n := by
    intro n f
    induction n with
    | zero => rfl
    | succ n ih => rw [List.range_succ, List.flatMap_append, List.length_append, ih]; simp [be16]; omega
  exact this _ _

theorem flushPayload_ne_nil (s : State) (w : Window) : flushPayload s w ≠ [] := by
  have := flushPayload_length s w
  have h := Nat.mul_pos (windowWidth_pos w) (windowHeight_pos w)
  intro he
  rw [he, List.length_nil] at this
  omega

/-- A window that is well-formed has its columns below COL_EXTENT and its rows below ROW_EXTENT. -/
theorem windowWf_iff {g : Cfg} {rot : Rotation} {w : Window} :
    windowWf g rot w = true ↔
      w.xs.toNat ≤ w.xe.toNat ∧ w.xe.toNat < colExtent g rot ∧ w.ys.toNat ≤ w.ye.toNat ∧
        w.ye.toNat < rowExtent g rot := by
  simp [windowWf, axisWf, BitVec.le_def, and_assoc]

/-! ### FLUSH's program -/

theorem flushActions_eq (s : State) (w : Window) :
    flushActions s w =
      setWindowActions s.par.cmd w ++ (serializeActions s.cfg s.rot w ++
        .dc .high :: (chunks s.cfg.maxXfer (flushPayload s w)).map .xfer) := by
  rw [flushActions, serialized_window, List.append_assoc]

theorem callsFrom_serialize (dc : Level) (as : List Nat) : callsFrom dc (as.map .pushPixel) = [] := by
  induction as with
  | nil => rfl
  | cons a as ih => simp [callsFrom, callOf, levelOf, ih]

theorem callsFrom_xfers (dc : Level) (bss : List (List Byte)) :
    callsFrom dc (bss.map .xfer) = bss.map (.busXfer dc) := by
  induction bss with
  | nil => rfl
  | cons b bss ih => simp [callsFrom, callOf, levelOf, ih]

/-- The calls of FLUSH. -/
theorem callsFrom_flush (dc : Level) (s : State) (w : Window) : callsFrom dc (flushActions s w) = flushCalls s w := by
  rw [flushActions_eq, callsFrom_append, callsFrom_setWindow, callsFrom_append, serializeActions, callsFrom_serialize,
    flushCalls]
  simp [callsFrom, callOf, levelOf, callsFrom_xfers]

theorem mem_flushCalls {s : State} {w : Window} {e : Event} (h : e ∈ flushCalls s w) :
    (∃ l, e = .gpioDc l) ∨ (∃ l bs, e = .busXfer l bs) := by
  simp only [flushCalls, List.mem_append, List.mem_cons, List.mem_map] at h
  rcases h with h | h | ⟨bs, -, rfl⟩
  · exact mem_setWindowCalls h
  · exact .inl ⟨_, h⟩
  · exact .inr ⟨_, _, rfl⟩

theorem stream_calls (bss : List (List Byte)) : ∀ a ∈ Action.dc .high :: bss.map .xfer, isCall a = true := by
  intro a ha
  simp only [List.mem_cons, List.mem_map] at ha
  rcases ha with rfl | ⟨b, -, rfl⟩ <;> rfl

theorem winFrom_serialize (w : Window) (as : List Nat) : winFrom w (as.map .pushPixel) = w := by
  induction as with
  | nil => rfl
  | cons a as ih => simpa [winStep] using ih

theorem winValidFrom_serialize (b : Bool) (as : List Nat) : winValidFrom b (as.map .pushPixel) = b := by
  induction as with
  | nil => rfl
  | cons a as ih => simpa [winValidStep] using ih

theorem stepFrom_serialize (k : BitVec 5) (as : List Nat) : stepFrom k (as.map .pushPixel) = k := by
  induction as with
  | nil => rfl
  | cons a as ih => simpa [stepStep] using ih

theorem winFrom_flush (s : State) (w v : Window) : winFrom v (flushActions s w) = w := by
  rw [flushActions_eq, winFrom_append, winFrom_append, winFrom_setWindow, serializeActions, winFrom_serialize,
    winFrom_calls (stream_calls _)]

theorem winValidFrom_flush (s : State) (w : Window) (b : Bool) : winValidFrom b (flushActions s w) = true := by
  rw [flushActions_eq, winValidFrom_append, winValidFrom_append, winValidFrom_setWindow, serializeActions,
    winValidFrom_serialize, winValidFrom_calls (stream_calls _)]

theorem stepFrom_flush (s : State) (w : Window) (k : BitVec 5) : stepFrom k (flushActions s w) = k := by
  rw [flushActions_eq, stepFrom_append, stepFrom_append, stepFrom_setWindow, serializeActions,
    stepFrom_serialize, stepFrom_calls (stream_calls _)]

theorem pixelsFrom_flush (s : State) (w : Window) :
    pixelsFrom s.fb ([], 0) (flushActions s w) = (flushPayload s w, windowWidth w * windowHeight w) := by
  rw [flushActions_eq, pixelsFrom_append, pixelsFrom_append, pixelsFrom_setWindow, serializeActions,
    pixelsFrom_serialize, pixelsFrom_calls (stream_calls _), serialized_window]
  simp

/-- FLUSH up to its n-th call: inside SET_WINDOW, or past SERIALIZE. -/
theorem untilCall_flush (s : State) (w : Window) (n : Nat) :
    untilCall n (flushActions s w) =
      if n < 10 then untilCall n (setWindowActions s.par.cmd w)
      else setWindowActions s.par.cmd w ++ (serializeActions s.cfg s.rot w ++
        untilCall (n - 10) (.dc .high :: (chunks s.cfg.maxXfer (flushPayload s w)).map .xfer)) := by
  rw [flushActions_eq, untilCall_append n _ _ .low, callsFrom_setWindow, setWindowCalls_length]
  split
  · rfl
  · rw [untilCall_append _ _ _ .low, serializeActions, callsFrom_serialize]
    simp

end Sys2Proof.Machine
end

