-- ==== Sys2Proof/Laws/Sink.lean ====
section
/-! SUPPORT. What the operations of SINK can do: which of them leave its window alone, and one pixel of a memory write. -/

namespace Sys2Proof.Machine

open Sys2Proof

/-- Two states of SINK with the same window and mode. -/
def Sink.sameWindow (k l : Sink) : Prop :=
  k.sxs = l.sxs ∧ k.sxe = l.sxe ∧ k.sys = l.sys ∧ k.sye = l.sye ∧ k.writing = l.writing

theorem Sink.lose_window (k : Sink) : k.lose.sameWindow k := ⟨rfl, rfl, rfl, rfl, rfl⟩

theorem Sink.checkAxis_window (k : Sink) (a b : Half) (extent : Nat) : (k.checkAxis a b extent).sameWindow k := by
  unfold Sink.checkAxis; split <;> exact ⟨rfl, rfl, rfl, rfl, rfl⟩

/-- A pixel moves the cursor and changes GRAM, not the window (R83). -/
theorem Sink.takePixel_window (k : Sink) (p q : Byte) : (k.takePixel p q).sameWindow k := by
  unfold Sink.takePixel; dsimp only; split <;> split <;> split <;> exact ⟨rfl, rfl, rfl, rfl, rfl⟩

theorem Sink.takeByte_window (k : Sink) (b : Byte) : (k.takeByte b).sameWindow k := by
  unfold Sink.takeByte
  split
  · exact ⟨rfl, rfl, rfl, rfl, rfl⟩
  · exact Sink.takePixel_window k _ b

/-- A pixel inside a known window (R83): GRAM at the cursor is written, the cursor advances, `known` stays. -/
theorem Sink.takePixel_inside {k : Sink} (hsure : (k.colsSure && k.rowsSure) = true) (hrow : k.cy ≤ k.sye.toNat)
    (p q : Byte) :
    k.takePixel p q =
      { k with
        half := none
        gram := ((k.cx, k.cy), ofBe16 p q) :: k.gram
        cx := if k.cx < k.sxe.toNat then k.cx + 1 else k.sxs.toNat
        cy := if k.cx < k.sxe.toNat then k.cy else k.cy + 1 } := by
  unfold Sink.takePixel
  rw [if_neg (Nat.not_lt.mpr hrow)]
  simp only [hsure, if_true]
  split <;> rfl

/-- A pixel past the end of a known window (R83, case (i) of R84): it is written where the cursor stands, which is outside
the window, and `known` becomes false. -/
theorem Sink.takePixel_past {k : Sink} (hsure : (k.colsSure && k.rowsSure) = true) (hrow : k.sye.toNat < k.cy)
    (p q : Byte) : (k.takePixel p q).known = false ∧ gramAt (k.takePixel p q).gram k.cx k.cy = some (ofBe16 p q) := by
  have out : (decide (k.cy ≤ k.sye.toNat)) = false := by simpa using hrow
  unfold Sink.takePixel
  simp only [hsure, if_true, if_pos hrow]
  split <;> exact ⟨rfl, by simp [Sink.lose, hsure, Sink.covers, out, gramAt]⟩

/-- A failed call leaves the controller in an unspecified state (R38, R206, U2). -/
@[simp] theorem Sink.feed_failed (c : CmdBytes) (x y : Nat) (k : Sink) (e : Event) :
    k.feed c x y { event := e, ok := false } = k.forget := rfl

/-- After a failed call, or with the panel put into reset, nothing is known of the controller. -/
theorem Sink.forget_unknown (k : Sink) :
    k.forget.known = false ∧ k.forget.colsSure = false ∧ k.forget.rowsSure = false ∧ k.forget.writing = false ∧
      ∀ c r, gramAt k.forget.gram c r = none := ⟨rfl, rfl, rfl, rfl, fun _ _ => rfl⟩

/-- Outside READY SINK does not read ROT (R22, R40). -/
theorem Sink.observe_rot (k : Sink) {s t : State} (ht : t.life ≠ .ready) (r q : Rotation) :
    k.observe { s with rot := q } { t with rot := r } = k.observe s t := by
  simp [Sink.observe, memoryExtents, ht]

/-- Block reset makes SINK unknown (R80). -/
theorem Sink.observe_attach {s : State} {cfg : Cfg} {par : Params} {rest : List Request}
    (h : s.requests = .attach cfg par :: rest) (k : Sink) (t : State) : k.observe s t = Sink.unknown := by
  rw [Sink.observe, h]

end Sys2Proof.Machine
end

