-- ==== Sys2Proof/Laws/Traces.lean ====
section
/-! SUPPORT. What any instruction that answers a next state did to TRACE, NOW and the environment's answers, said once
(`exec_ran`), and which calls it made (`instrCalls`). A proof over all instructions or over every step starts here. -/

namespace Sys2Proof.Machine

open Sys2Proof

/-! ### The calls of each operation -/

theorem callsOf_hwReset (s : State) : callsOf .hwReset s = hwResetCalls s.par.delays := rfl

theorem callsOf_init (rot : Rotation) (order : ColorOrder) (s : State) :
    callsOf (.init rot order) s = initCalls s.par rot order := callsFrom_initActions _ _ _ _

theorem callsOf_flush (w : Window) (s : State) : callsOf (.flush w) s = flushCalls s w := callsFrom_flush _ _ _

theorem callsOf_setWindow (w : Window) (s : State) : callsOf (.setWindow w) s = setWindowCalls s.par.cmd w :=
  callsFrom_setWindow _ _ _

theorem callsOf_send (cmd : Byte) (data : List Byte) (s : State) : callsOf (.send cmd data) s = frameCalls ⟨cmd, data⟩ :=
  callsFrom_sendActions _ _ _

/-- The frame and the delay of a frame instruction where it stands. -/
def frameOf (i : Instr) (s : State) : Frame × Nat :=
  if inWindow i s then
    match i with
    | .colRange xs xe => (⟨s.par.cmd.colRange, rangeData xs xe⟩, 0)
    | .rowRange ys ye => (⟨s.par.cmd.rowRange, rangeData ys ye⟩, 0)
    | _ => (⟨s.par.cmd.memWrite, []⟩, 0)
  else (⟨cmdOf s.par.cmd (kindOf i), slotData s.par s.rot s.cord (kindOf i)⟩, slotDelay s.par (kindOf i))

theorem callsFrom_windowProgram (dc : Level) (c : CmdBytes) (i : Instr) :
    callsFrom dc (windowProgram c i) =
      frameCalls (match i with
        | .colRange xs xe => ⟨c.colRange, rangeData xs xe⟩
        | .rowRange ys ye => ⟨c.rowRange, rangeData ys ye⟩
        | _ => ⟨c.memWrite, []⟩) := by
  cases i
  case colRange a b => exact callsFrom_colRange _ _ _ _
  case rowRange a b => exact callsFrom_rowRange _ _ _ _
  all_goals exact callsFrom_memWrite _ _

/-- The calls of a frame instruction: its frame, then its delay. -/
theorem frameCallsOf_eq (i : Instr) (s : State) :
    frameCallsOf i s =
      frameCalls (frameOf i s).1 ++ (if (frameOf i s).2 = 0 then [] else [.sleep (frameOf i s).2]) := by
  unfold frameCallsOf frameProgram frameOf
  by_cases h : inWindow i s = true
  · rw [if_pos h, if_pos h, callsFrom_windowProgram]
    cases i <;> simp
  · rw [if_neg h, if_neg h, callsFrom_slotActions]
    rfl

/-- The calls of an instruction, if all answer `ok`. -/
def instrCalls (i : Instr) (s : State) : List Event := if isOperation i then callsOf i s else frameCallsOf i s

/-! ### What an instruction did -/

/-- From `s` to `t` some calls answered `ok`, and then one failed or none did. -/
structure Ran (s t : State) (calls : List Event) (failed : Option Event) : Prop where
  cfg : t.cfg = s.cfg
  par : t.par = s.par
  fb : t.fb = s.fb
  fbPixels : t.fbPixels = s.fbPixels
  attached : t.attached = s.attached
  requests : t.requests = s.requests
  trace : t.trace = s.trace ++ okEntries calls ++ (failed.toList.map failedEntry)
  now : t.now = s.now + elapsed calls s.env
  env : t.env = s.env.drop (calls.length + failed.toList.length)

theorem entryOf_untouched (i : Instr) (t : State) :
    (entryOf i t).cfg = t.cfg ∧ (entryOf i t).par = t.par ∧ (entryOf i t).fb = t.fb ∧
      (entryOf i t).fbPixels = t.fbPixels ∧ (entryOf i t).attached = t.attached ∧
      (entryOf i t).requests = t.requests ∧ (entryOf i t).trace = t.trace ∧ (entryOf i t).now = t.now ∧
      (entryOf i t).env = t.env := by
  cases i <;> exact ⟨rfl, rfl, rfl, rfl, rfl, rfl, rfl, rfl, rfl⟩

theorem ran_finished (as : List Action) (s : State) : Ran s (finished as s) (callsFrom s.dc as) none := by
  constructor <;> simp [finished]

theorem ran_stopped {as : List Action} {n : Nat} {s : State} (hn : n < (callsFrom s.dc as).length) :
    Ran s (stopped as n s) ((callsFrom s.dc as).take n) (some (failingCall (callsFrom s.dc as) n)) := by
  constructor <;> simp [stopped, traceToFailure, Nat.min_eq_left (Nat.le_of_lt hn)]

theorem Ran.of_start {i : Instr} {s t : State} {calls : List Event} {failed : Option Event}
    (h : Ran (startOf i s) t calls failed) : Ran s t calls failed := by
  obtain ⟨h1, h2, h3, h4, h5, h6, h7, h8, h9⟩ := entryOf_untouched i s.enter
  constructor
  · rw [h.cfg, startOf, h1]; rfl
  · rw [h.par, startOf, h2]; rfl
  · rw [h.fb, startOf, h3]; rfl
  · rw [h.fbPixels, startOf, h4]; rfl
  · rw [h.attached, startOf, h5]; rfl
  · rw [h.requests, startOf, h6]; rfl
  · rw [h.trace, startOf, h7]; rfl
  · rw [h.now, startOf, h8, h9]; rfl
  · rw [h.env, startOf, h9]; rfl

theorem Ran.returnOk {op : HostOp} {s t : State} {calls : List Event} {failed : Option Event}
    (h : Ran s t calls failed) : Ran s (returnOk op t) calls failed := by
  cases op <;> exact ⟨h.cfg, h.par, h.fb, h.fbPixels, h.attached, h.requests, h.trace, h.now, h.env⟩

theorem Ran.takeAbort {op : HostOp} {e : Result} {s t : State} {calls : List Event} {failed : Option Event}
    (h : Ran s t calls failed) : Ran s (takeAbort op e t) calls failed := by
  cases op <;> exact ⟨h.cfg, h.par, h.fb, h.fbPixels, h.attached, h.requests, h.trace, h.now, h.env⟩

theorem Ran.newEntries {s t : State} {calls : List Event} {failed : Option Event} (h : Ran s t calls failed) :
    newEntries s t = okEntries calls ++ (failed.toList.map failedEntry) := by
  rw [Machine.newEntries, h.trace, List.append_assoc, List.drop_left]

/-- What an instruction that answers a next state did: nothing but ERR (a rejected operation); or all its calls, each
answering `ok`; or its calls up to one that failed. -/
theorem exec_ran {i : Instr} {s t : State} (h : exec i s = .next t) :
    (isOperation i = true ∧ admitted (opOf i) s.life = false ∧ t = s.setErr (.sequenceError .order) ∧
      Ran s t [] none) ∨
    (Ran s t (instrCalls i s) none ∧ answersOk (instrCalls i s).length s = true ∧
      (isOperation i = true → admitted (opOf i) s.life = true ∧ premiseOf i s = none ∧
        t = returnOk (opOf i) (finished (programOf i s) (startOf i s))) ∧
      (isOperation i = false → placeOf i s = true ∧ t = finished (frameProgram i s) s)) ∨
    (∃ n, n < (instrCalls i s).length ∧ failsAfter n s = true ∧
      Ran s t ((instrCalls i s).take n) (some (failingCall (instrCalls i s) n)) ∧
      (isOperation i = true → admitted (opOf i) s.life = true ∧ premiseOf i s = none ∧
        t = takeAbort (opOf i) (errorFor (transfersIn ((instrCalls i s).take n)) (failingCall (instrCalls i s) n))
          (stopped (programOf i s) n (startOf i s))) ∧
      (isOperation i = false → placeOf i s = true ∧
        t = takeAbort (frameOpOf i s)
          (errorFor (s.xfers + transfersIn ((instrCalls i s).take n)) (failingCall (instrCalls i s) n))
          (stopped (frameProgram i s) n s))) := by
  by_cases hi : isOperation i = true
  · have hic : instrCalls i s = callsOf i s := by simp [instrCalls, hi]
    have hstart : callsFrom (startOf i s).dc (programOf i s) = callsOf i s := by rw [startOf_dc]; rfl
    obtain ⟨-, -, ⟨ha, ht⟩ | ⟨ha, hp, ⟨hok, ht⟩ | ⟨n, hn, hf, ht⟩⟩⟩ := operation_next hi h
    · refine .inl ⟨hi, ha, ht, ?_⟩
      rw [ht]
      constructor <;> simp [elapsed]
    · refine .inr (.inl ⟨?_, by rw [hic]; exact hok, fun _ => ⟨ha, hp, ht⟩, fun h => by simp [hi] at h⟩)
      rw [ht, hic, ← hstart]
      exact (Ran.of_start (ran_finished _ _)).returnOk
    · refine .inr (.inr ⟨n, by rw [hic]; exact hn, hf, ?_, fun _ => ⟨ha, hp, by rw [hic]; exact ht⟩,
        fun h => by simp [hi] at h⟩)
      rw [ht, hic]
      refine Ran.takeAbort (Ran.of_start (i := i) ?_)
      have := ran_stopped (s := startOf i s) (as := programOf i s) (n := n) (by rw [hstart]; exact hn)
      rwa [hstart] at this
  · have hi' : isOperation i = false := by simpa using hi
    have hic : instrCalls i s = frameCallsOf i s := by simp [instrCalls, hi']
    obtain ⟨-, hpl, -, ⟨hok, ht⟩ | ⟨n, hn, hf, ht⟩⟩ := frame_next hi' h
    · refine .inr (.inl ⟨?_, by rw [hic]; exact hok, fun h => by simp [hi'] at h, fun _ => ⟨hpl, ht⟩⟩)
      rw [ht, hic]
      exact ran_finished _ _
    · refine .inr (.inr ⟨n, by rw [hic]; exact hn, hf, ?_, fun h => by simp [hi'] at h,
        fun _ => ⟨hpl, by rw [hic]; exact ht⟩⟩)
      rw [ht, hic]
      exact Ran.takeAbort (ran_stopped hn)

/-! ### What an operation leaves in LIFE, ERR and BUSY -/

/-- No failing call raises Ok or SequenceError(ORDER) (R241). -/
theorem errorFor_ne (k : Nat) (e : Event) : errorFor k e ≠ .ok ∧ errorFor k e ≠ .sequenceError .order := by
  cases e <;> simp [errorFor]

/-- LIFE where an operation's program starts: HW_RESET alone writes it on entry (R140). -/
theorem startOf_life (i : Instr) (s : State) : (startOf i s).life = if i = .hwReset then .unreset else s.life := by
  cases i <;> simp [startOf, entryOf, initEntry, State.latch, State.setWinValid, State.clearPixels, State.enter,
    State.setLife]

/-- The status an operation leaves: rejected, returned Ok, or aborted. -/
theorem operation_status {i : Instr} {s t : State} (hi : isOperation i = true) (h : exec i s = .next t) :
    (admitted (opOf i) s.life = false ∧ t = s.setErr (.sequenceError .order)) ∨
    (admitted (opOf i) s.life = true ∧ t.err = .ok ∧ t.life = lifeOnOk (opOf i) (startOf i s).life ∧
      t.busy = false) ∨
    (admitted (opOf i) s.life = true ∧ t.err ≠ .ok ∧ t.err ≠ .sequenceError .order ∧
      t.life = lifeOnAbort (opOf i) (startOf i s).life ∧ t.busy = false) := by
  rcases exec_ran h with ⟨-, ha, ht, -⟩ | ⟨-, -, h1, -⟩ | ⟨n, -, -, -, h1, -⟩
  · exact .inl ⟨ha, ht⟩
  · obtain ⟨ha, -, ht⟩ := h1 hi
    exact .inr (.inl ⟨ha, by rw [ht]; rfl, by rw [ht]; rfl, by rw [ht]; rfl⟩)
  · obtain ⟨ha, -, ht⟩ := h1 hi
    refine .inr (.inr ⟨ha, ?_, ?_, by rw [ht]; rfl, by rw [ht]; rfl⟩)
    · rw [ht, takeAbort_err]; exact (errorFor_ne _ _).1
    · rw [ht, takeAbort_err]; exact (errorFor_ne _ _).2

/-- What an instruction that answers a next state keeps, whatever it is. -/
theorem exec_keeps {i : Instr} {s t : State} (h : exec i s = .next t) :
    ∃ calls failed, Ran s t calls failed := by
  rcases exec_ran h with ⟨-, -, -, r⟩ | ⟨r, -⟩ | ⟨n, -, -, r, -⟩ <;> exact ⟨_, _, r⟩

/-- After a host operation the handle can take the next one. -/
theorem idle_after {i : Instr} {s t : State} (hi : isOperation i = true) (h : exec i s = .next t) : idle t = true := by
  obtain ⟨h1, h2⟩ := idle_iff.mp (operation_next hi h).1
  obtain ⟨c, f, r⟩ := exec_keeps h
  have hb : t.busy = false := by
    rcases operation_status hi h with ⟨-, ht⟩ | ⟨-, -, -, hb⟩ | ⟨-, -, -, -, hb⟩
    · rw [ht]; exact h2
    · exact hb
    · exact hb
  rw [noMeaning_eq_none] at h1
  rw [idle_iff, noMeaning_eq_none, r.attached, r.cfg, r.par]
  exact ⟨h1, hb⟩

/-- Whatever gives the handle no meaning refuses every instruction. -/
theorem exec_noMeaning {s : State} {r : Refusal} (i : Instr) (h : noMeaning s = some r) : exec i s = .refused r := by
  by_cases hop : isOperation i = true
  · rw [exec_operation hop]; simp [issue, h]
  · rw [exec_frame (by simpa using hop)]; simp [runFrame, h]

theorem wire_append (a b : List Entry) : wire (a ++ b) = wire a ++ wire b := by simp [wire]

end Sys2Proof.Machine
end

