-- ==== Sys2Proof/Laws/Wires.lean ====
section
/-! SUPPORT. What a FLUSH or an INITIALIZE that returned Ok did, and the wire of their calls. -/

namespace Sys2Proof.Machine

open Sys2Proof

/-- MAX_XFER of a handle that can run an operation is none or positive (R284). -/
theorem maxXfer_pos {s : State} (h : noMeaning s = none) : ∀ m, s.cfg.maxXfer = some m → 1 ≤ m := by
  intro m hm
  have hp := (noMeaning_eq_none.mp h).2
  simp only [parametersWf, cfgWf, Bool.and_eq_true] at hp
  have hx := hp.1.1.1.1.1.2
  rw [hm] at hx
  simp at hx
  omega

/-- A FLUSH that returned Ok. -/
theorem flush_returned {s t : State} {w : Window} (h : exec (.flush w) s = .next t) (he : t.err = .ok) :
    idle s = true ∧ s.life = .ready ∧ windowWf s.cfg s.rot w = true ∧ flushPremise s = none ∧
      newEntries s t = okEntries (flushCalls s w) ∧ answersOk (flushCalls s w).length s = true ∧
      t = returnOk .flush (finished (flushActions s w) (startOf (.flush w) s)) := by
  have hn := operation_next (i := .flush w) rfl h
  rcases exec_ran h with ⟨-, -, ht, -⟩ | ⟨r, hok, h1, -⟩ | ⟨n, -, -, -, h1, -⟩
  · rw [ht] at he; cases he
  · obtain ⟨ha, hp, ht⟩ := h1 rfl
    have hl : s.life = .ready := by revert ha; cases s.life <;> simp [opOf, admitted]
    have hc : instrCalls (.flush w) s = flushCalls s w := callsOf_flush w s
    refine ⟨hn.1, hl, ?_, hp, ?_, ?_, ht⟩
    · have := hn.2.1; rwa [operandsOk_flush, windowOk_ready hl] at this
    · rw [r.newEntries, hc]; simp
    · rw [← hc]; exact hok
  · rw [(h1 rfl).2.2] at he; exact absurd he (errorFor_ne _ _).1

/-- An INITIALIZE that returned Ok. -/
theorem init_returned {s t : State} {rot : Rotation} {order : ColorOrder} (h : exec (.init rot order) s = .next t)
    (he : t.err = .ok) :
    idle s = true ∧ s.life = .resetDone ∧ newEntries s t = okEntries (initCalls s.par rot order) ∧
      answersOk (initCalls s.par rot order).length s = true ∧
      t = returnOk .init (finished (initActions s.par rot order) (startOf (.init rot order) s)) := by
  have hn := operation_next (i := .init rot order) rfl h
  rcases exec_ran h with ⟨-, -, ht, -⟩ | ⟨r, hok, h1, -⟩ | ⟨n, -, -, -, h1, -⟩
  · rw [ht] at he; cases he
  · obtain ⟨ha, -, ht⟩ := h1 rfl
    have hl : s.life = .resetDone := by revert ha; cases s.life <;> simp [opOf, admitted]
    have hc : instrCalls (.init rot order) s = initCalls s.par rot order := callsOf_init rot order s
    refine ⟨hn.1, hl, ?_, ?_, ht⟩
    · rw [r.newEntries, hc]; simp
    · rw [← hc]; exact hok
  · rw [(h1 rfl).2.2] at he; exact absurd he (errorFor_ne _ _).1

theorem wire_chunks (bss : List (List Byte)) :
    wire (okEntries (bss.map (.busXfer .high))) = bss.map fun bs => (Level.high, bs) := by
  induction bss with
  | nil => rfl
  | cons b bss ih =>
    simp only [List.map_cons, okEntries, wire, List.filterMap_cons, eventTransfer] at *
    rw [← ih]

/-- The wire of a frame's calls is its wire form (R93). -/
theorem wire_frame (f : Frame) : wire (okEntries (frameCalls f)) = frameWire f := by
  by_cases h : f.data = [] <;> simp [frameCalls, frameWire, h, wire, okEntries, eventTransfer]

/-- The wire of a FLUSH: the three window frames, then the chunks of the payload. -/
theorem wire_flush (s : State) (w : Window) :
    wire (okEntries (flushCalls s w)) =
      [(.low, [s.par.cmd.colRange]), (.high, rangeData w.xs w.xe), (.low, [s.par.cmd.rowRange]),
       (.high, rangeData w.ys w.ye), (.low, [s.par.cmd.memWrite])] ++
      (chunks s.cfg.maxXfer (flushPayload s w)).map fun bs => (Level.high, bs) := by
  rw [flushCalls, setWindowCalls_eq, okEntries_append, wire_append]
  have h1 : ∀ es, wire (okEntries (.gpioDc .high :: es)) = wire (okEntries es) := fun es => rfl
  rw [h1, wire_chunks]
  rfl

/-- The wire of some rows of Table 42-A: their frames, one after the other. -/
theorem wire_rows (xs : List SlotCase) :
    wire (okEntries (xs.flatMap SlotCase.calls)) = xs.flatMap fun x => frameWire x.frame := by
  induction xs with
  | nil => rfl
  | cons x xs ih =>
    have hd : wire (okEntries (if x.delay = 0 then [] else [.sleep x.delay])) = [] := by split <;> rfl
    simp only [List.flatMap_cons, okEntries_append, wire_append, ih, SlotCase.calls, wire_frame, hd, List.append_nil]

/-- The two bytes of each pixel in a FLUSH's payload (R217). -/
theorem flushPayload_getElem? (s : State) (w : Window) {k : Nat} (hk : k < windowWidth w * windowHeight w) :
    (flushPayload s w)[2 * k]? = some (hi8 (flushPixel s w k)) ∧
      (flushPayload s w)[2 * k + 1]? = some (lo8 (flushPixel s w k)) := by
  have hlen : ∀ (f : Nat → Half) (n : Nat), ((List.range n).flatMap fun k => be16 (f k)).length = 2 * n := by
    intro f n
    induction n with
    | zero => rfl
    | succ n ih => rw [List.range_succ, List.flatMap_append, List.length_append, ih]; simp [be16]; omega
  have hget : ∀ (f : Nat → Half) (n : Nat), ∀ k < n,
      ((List.range n).flatMap fun k => be16 (f k))[2 * k]? = some (hi8 (f k)) ∧
        ((List.range n).flatMap fun k => be16 (f k))[2 * k + 1]? = some (lo8 (f k)) := by
    intro f n
    induction n with
    | zero => simp
    | succ n ih =>
      intro k hk
      rw [List.range_succ, List.flatMap_append]
      by_cases h : k < n
      · rw [List.getElem?_append_left (by rw [hlen]; omega), List.getElem?_append_left (by rw [hlen]; omega)]
        exact ih k h
      · have : k = n := by omega
        subst this
        rw [List.getElem?_append_right (by rw [hlen]), List.getElem?_append_right (by rw [hlen]; omega), hlen]
        simp [be16]
  exact hget _ _ k hk

end Sys2Proof.Machine
end

