-- ==== Sys2Proof/Laws/Steps.lean ====
section
/-! SUPPORT. What a step that answers a next state did, said once (`step_cases`): a proof that every step keeps something
is a proof over these six cases. -/

namespace Sys2Proof.Machine

open Sys2Proof

/-- A step idles, executes an instruction, writes a pixel, binds a FrameBuffer, attaches or detaches. -/
theorem step_cases {s t : State} (h : step s = .next t) :
    (s.requests = [] ∧ t = s) ∨
    (∃ i rest, exec i { s with requests := rest } = .next t) ∨
    (∃ a v rest, s.busy = false ∧ a < s.fbPixels ∧ t = { s with fb := writePixel s.fb a v, requests := rest }) ∨
    (∃ n rest, s.busy = false ∧ t = { s with fb := [], fbPixels := n, requests := rest }) ∨
    (∃ cfg par rest, s.busy = false ∧ parametersWf cfg par = true ∧
      t = { State.blockReset cfg par with fb := s.fb, fbPixels := s.fbPixels, env := s.env, requests := rest }) ∨
    (∃ rest, s.busy = false ∧ s.attached = true ∧ t = { s with attached := false, requests := rest }) := by
  have descriptor : ∀ d rest, serveDescriptor d { s with requests := rest } = .next t →
      ∃ i rest, exec i { s with requests := rest } = .next t := by
    intro d rest hd
    unfold serveDescriptor at hd
    split at hd
    · exact ⟨_, _, hd⟩
    · cases hd
  unfold step at h
  cases hr : s.requests with
  | nil => rw [hr] at h; cases h; exact .inl ⟨rfl, rfl⟩
  | cons r rest =>
    rw [hr] at h
    refine .inr ?_
    cases r with
    | hostOp bytes => exact .inl (descriptor (.host bytes) rest h)
    | frame bytes => exact .inl (descriptor (.frame bytes) rest h)
    | setPixel a v =>
      simp only [serve, servePixel] at h
      by_cases hb : s.busy = true
      · simp [hb] at h
      · by_cases ha : s.fbPixels ≤ a
        · simp [hb, ha] at h
        · rw [if_neg hb, if_neg ha] at h
          cases h
          exact .inr (.inl ⟨a, v, rest, by simpa using hb, by omega, rfl⟩)
    | bindFrameBuffer n =>
      simp only [serve, serveFrameBuffer] at h
      by_cases hb : s.busy = true
      · simp [hb] at h
      · rw [if_neg hb] at h
        cases h
        exact .inr (.inr (.inl ⟨n, rest, by simpa using hb, rfl⟩))
    | attach cfg par =>
      simp only [serve, serveAttach] at h
      by_cases hb : s.busy = true
      · simp [hb] at h
      · by_cases hw : parametersWf cfg par = true
        · simp only [hb, hw] at h
          cases h
          exact .inr (.inr (.inr (.inl ⟨cfg, par, rest, by simpa using hb, hw, rfl⟩)))
        · simp [hb, hw] at h
    | detach =>
      simp only [serve, serveDetach] at h
      cases ha : s.attached with
      | true =>
        cases hb : s.busy with
        | true => simp [hb, ha] at h
        | false =>
          simp only [hb, ha, Bool.not_true, Bool.false_eq_true, if_false, Host.Outcome.next.injEq] at h
          refine .inr (.inr (.inr (.inr ⟨rest, rfl, rfl, ?_⟩)))
          rw [← h]
      | false => simp [ha] at h

end Sys2Proof.Machine
end

