-- ==== Sys2Proof/Machine/Text.lean ====
section
/-! DEFINITION. The textual syntax of traces, operations and results (spec/30_encoding.md R104, R105), as renderings. It
is notation for the spec's examples ("exists only so that `95_test_vectors.md` can be written", R107); no rule of the
machine uses it. -/

namespace Sys2Proof.Machine

open Sys2Proof

/-- One hexadecimal digit. -/
def hexDigit (n : Nat) : String :=
  match n with
  | 0 => "0" | 1 => "1" | 2 => "2" | 3 => "3" | 4 => "4" | 5 => "5" | 6 => "6" | 7 => "7"
  | 8 => "8" | 9 => "9" | 10 => "A" | 11 => "B" | 12 => "C" | 13 => "D" | 14 => "E" | _ => "F"

/-- Two hexadecimal digits of a byte. -/
def hexByte (b : Byte) : String := hexDigit (b.toNat / 16) ++ hexDigit (b.toNat % 16)

/-- Strings with one space between them. -/
def spaced : List String → String
  | [] => ""
  | [a] => a
  | a :: b :: rest => a ++ " " ++ spaced (b :: rest)

/-- A byte list as hex pairs. -/
def hexBytes (bs : List Byte) : String := spaced (bs.map hexByte)

/-- An event (R105). -/
def eventText : Event → String
  | .gpioRst .assert => "RST:A"
  | .gpioRst .deassert => "RST:D"
  | .gpioDc .low => "DC:L"
  | .gpioDc .high => "DC:H"
  | .busXfer .low bs => "C:" ++ hexBytes bs
  | .busXfer .high bs => "D:" ++ hexBytes bs
  | .sleep n => "SLEEP:" ++ toString n

/-- An entry (R105): "`!` after an event marks the call that answered `fail`". -/
def entryText (e : Entry) : String := if e.ok then eventText e.event else eventText e.event ++ "!"

/-- A trace (R105). -/
def traceText (es : List Entry) : String := spaced (es.map entryText)

/-- A window as `(xs,ys)-(xe,ye)`, decimal (R104). -/
def windowText (w : Window) : String :=
  "(" ++ toString w.xs.toNat ++ "," ++ toString w.ys.toNat ++ ")-(" ++ toString w.xe.toNat ++ "," ++
    toString w.ye.toNat ++ ")"

/-- A rotation in degrees (R104). -/
def rotationText : Rotation → String
  | .deg0 => "0"
  | .deg90 => "90"
  | .deg180 => "180"
  | .deg270 => "270"

/-- A colour order (R104). -/
def orderText : ColorOrder → String
  | .bgr => "BGR"
  | .rgb => "RGB"

/-- A host operation's line (R104), none for a frame kind, which has no line of its own. -/
def operationText : Instr → Option String
  | .hwReset => some "HW_RESET"
  | .init rot order => some ("INITIALIZE rot=" ++ rotationText rot ++ ", order=" ++ orderText order)
  | .setWindow w => some ("SET_WINDOW " ++ windowText w)
  | .flush w => some ("FLUSH " ++ windowText w)
  | .send cmd data => some ("SEND " ++ hexByte cmd ++ (if data = [] then "" else ": " ++ hexBytes data))
  | _ => none

/-- A result (R104). -/
def resultText : Result → String
  | .ok => "-> Ok"
  | .busError k => "-> Err(BusError(" ++ toString k ++ "))"
  | .sequenceError .gpioRst => "-> Err(SequenceError(GPIO_RST))"
  | .sequenceError .gpioDc => "-> Err(SequenceError(GPIO_DC))"
  | .sequenceError .delay => "-> Err(SequenceError(DELAY))"
  | .sequenceError .order => "-> Err(SequenceError(ORDER))"

end Sys2Proof.Machine
end

