-- ==== Sys2Proof/Tests/Slice0.lean ====
section
/-! SUPPORT. Tests: the worked examples of spec/95_test_vectors.md and of the rules, in the textual syntax of R104 and R105;
words decoded by hand from the tables; an ill-formed term for each well-formedness check; and, for every obligation with
hypotheses, a witness that meets them. -/

namespace Sys2Proof.Tests

open Sys2Proof Sys2Proof.Machine

/-! ### Helpers -/

/-- A state of the default parameter set with a given LIFE, and the environment's answers. -/
def lifeState (l : Life) (env : List Answer) : State := { State.reset with life := l, rst := .deassert, env := env }

/-- The end state of program P1 (spec/95_test_vectors.md), with the environment's answers. -/
def readyState (env : List Answer) : State :=
  { lifeState .ready env with
    rot := .deg0, cord := .rgb, win := ⟨0#16, 127#16, 0#16, 127#16⟩, winValid := true, step := 18#5, xfers := 34,
    now := 371 }

/-- An INITIALIZE in progress at a slot. -/
def slotState (k : Nat) (env : List Answer) : State :=
  { lifeState .resetDone env with busy := true, step := BitVec.ofNat 5 k, rot := .deg270, cord := .rgb }

/-- A SET_WINDOW in progress. -/
def windowState (env : List Answer) : State := { readyState env with busy := true, winValid := false, xfers := 0 }

/-- The FrameBuffer of T-PIX-1. -/
def smallImage : Memory := [(0, 0xF800#16), (1, 0x07E0#16), (128, 0x001F#16), (129, 0xFFFF#16)]

/-- The geometry of T-WIN-6, T-PIX-6 and P6. -/
def wideCfg : Cfg := { defaultCfg with virtW := 320#16, virtH := 240#16 }

/-- `n` calls answer `ok`, the next one `fail`. -/
def failAt (n : Nat) : List Answer := List.replicate n (.ok 0) ++ [.fail]

/-- What holds of the next state, if there is one. -/
def after (o : Out) (f : State → Bool) : Bool :=
  match o with
  | .next t => f t
  | .fault _ => false
  | .refused _ => false

/-- The next state, if there is one. -/
def stateOf (o : Out) (d : State) : State :=
  match o with
  | .next t => t
  | .fault _ => d
  | .refused _ => d

theorem next_stateOf {o : Out} {f : State → Bool} (h : after o f = true) (d : State) : o = .next (stateOf o d) := by
  cases o <;> simp_all [after, stateOf]

/-- Why an outcome is refused. -/
def refusalOf : Out → Option Refusal
  | .next _ => none
  | .fault _ => none
  | .refused r => some r

/-- An instruction run in a state: the trace it adds (R105), its result, and one more fact about the next state. -/
def runs (i : Instr) (s : State) (text : String) (r : Result) (f : State → Bool) : Bool :=
  after (exec i s) fun t => decide (traceText (newEntries s t) = text) && decide (t.err = r) && f t

/-! ### Decoding and encoding -/

/-- Selectors from Table 30-A, operands from R92, laid out as notes/assumptions/3.md says, first byte lowest. -/
theorem test_decode_host_words :
    decodeTableWord 8 0x01 = some .hwReset ∧
    decodeTableWord 24 0x000302 = some (.init .deg270 .bgr) ∧
    decodeTableWord 24 0x010002 = some (.init .deg0 .rgb) ∧
    decodeTableWord 72 0x530000005300000003 = some (.flush ⟨0#16, 83#16, 0#16, 83#16⟩) ∧
    decodeTableWord 72 0x16001400_0C000A00_04 = some (.setWindow ⟨10#16, 12#16, 20#16, 22#16⟩) ∧
    decodeTableWord 24 0x053A05 = some (.send 0x3A#8 [0x05#8]) := by decide

/-- The operand bits a table word leaves out are 0. -/
theorem test_decode_short_words :
    decodeTableWord 8 0x02 = some (.init .deg0 .bgr) ∧ decodeTableWord 8 0x03 = some (.flush ⟨0#16, 0#16, 0#16, 0#16⟩) ∧
    decodeTableWord 8 0x05 = some (.send 0#8 []) ∧ decodeTableWord 8 0x2A = some (.colRange 0#16 0#16) := by decide

/-- Command bytes from Table 30-B. -/
theorem test_decode_init_words :
    decodeTableWord 8 0xB1 = some .frameRateA ∧ decodeTableWord 8 0xB2 = some .frameRateB ∧
    decodeTableWord 8 0xB3 = some .frameRateC ∧ decodeTableWord 8 0xB4 = some .inversionCtrl ∧
    decodeTableWord 8 0xC0 = some .powerCtrl1 ∧ decodeTableWord 8 0xC1 = some .powerCtrl2 ∧
    decodeTableWord 8 0xC2 = some .powerCtrl3 ∧ decodeTableWord 8 0xC3 = some .powerCtrl4 ∧
    decodeTableWord 8 0xC4 = some .powerCtrl5 ∧ decodeTableWord 8 0xC5 = some .vcomLevel ∧
    decodeTableWord 8 0xE0 = some .gammaA ∧ decodeTableWord 8 0xE1 = some .gammaB ∧
    decodeTableWord 8 0x3A = some .pixelFormat ∧ decodeTableWord 8 0x36 = some .orientation ∧
    decodeTableWord 8 0x11 = some .sleepExit ∧ decodeTableWord 8 0x29 = some .displayOn := by decide

/-- Command bytes from Table 30-B, operands from R201 and R202: 300 is `01 2C`, 83 is `00 53`. -/
theorem test_decode_window_words :
    decodeTableWord 40 0x2D012C012A = some (.colRange 300#16 301#16) ∧
    decodeTableWord 40 0x530000002B = some (.rowRange 0#16 83#16) ∧
    decodeTableWord 8 0x2C = some .memWrite := by decide

/-- Every way a descriptor can be rejected (R100, R101, R98). -/
theorem test_decode_rejects :
    decodeHostOp [] = .error .emptyDescriptor ∧ decodeHostOp [0x00#8] = .error .reservedSelector ∧
    decodeHostOp [0x06#8] = .error .reservedSelector ∧ decodeHostOp [0x07#8, 0x00#8] = .error .reservedSelector ∧
    decodeHostOp [0x08#8] = .error .selectorOutOfRange ∧ decodeHostOp [0x01#8, 0x00#8] = .error .wrongLength ∧
    decodeHostOp [0x02#8, 0x04#8, 0x00#8] = .error .rotationCode ∧
    decodeHostOp [0x02#8, 0x00#8, 0x02#8] = .error .orderCode ∧ decodeHostOp [0x05#8] = .error .wrongLength ∧
    decodeFrame defaultCmd [] = .error .emptyDescriptor ∧ decodeFrame defaultCmd [0x01#8] = .error .unknownCommand ∧
    decodeFrame defaultCmd [0x2C#8, 0x00#8] = .error .wrongLength := by
  repeat' constructor

/-- T-ENC-1 to T-ENC-8 and T-ENC-12. -/
theorem test_be16 :
    be16 0#16 = [0x00#8, 0x00#8] ∧ be16 83#16 = [0x00#8, 0x53#8] ∧ be16 127#16 = [0x00#8, 0x7F#8] ∧
    be16 255#16 = [0x00#8, 0xFF#8] ∧ be16 256#16 = [0x01#8, 0x00#8] ∧ be16 259#16 = [0x01#8, 0x03#8] ∧
    be16 300#16 = [0x01#8, 0x2C#8] ∧ be16 65535#16 = [0xFF#8, 0xFF#8] ∧ be16 0x1234#16 = [0x12#8, 0x34#8] := by decide

/-- T-ORI, all eight rows, in the table's order. -/
theorem test_orientation_table :
    [Rotation.deg0, .deg90, .deg180, .deg270].flatMap
        (fun r => [orientationByte defaultMasks r .bgr, orientationByte defaultMasks r .rgb]) =
      [0xC0#8, 0xC8#8, 0x60#8, 0x68#8, 0x00#8, 0x08#8, 0xA0#8, 0xA8#8] := by decide

/-- The codes of Table 60-A and of R29 to R32. -/
theorem test_codes :
    [Life.unreset, .resetDone, .ready, .failed].map lifeCode = [0#2, 1#2, 2#2, 3#2] ∧
    [Result.ok, .busError 4, .sequenceError .order].map resultCode = [0#2, 1#2, 2#2] ∧
    [Result.ok, .busError 4, .sequenceError .gpioRst, .sequenceError .gpioDc, .sequenceError .delay,
      .sequenceError .order].map resultInfo = [none, some 4, some 1, some 2, some 3, some 4] ∧
    [Rotation.deg0, .deg90, .deg180, .deg270].map rotBits = [0#2, 1#2, 2#2, 3#2] ∧
    levelBit .high = true ∧ resetLevelBit .assert = true ∧ cordBit .rgb = true := by decide

/-- R104, R105: the spec's own lines. -/
theorem test_text :
    operationText (.init .deg90 .bgr) = some "INITIALIZE rot=90, order=BGR" ∧
    operationText (.setWindow ⟨10#16, 12#16, 20#16, 22#16⟩) = some "SET_WINDOW (10,20)-(12,22)" ∧
    operationText (.send 0x2A#8 [0x00#8, 0x00#8, 0x00#8, 0x53#8]) = some "SEND 2A: 00 00 00 53" ∧
    resultText (.busError 4) = "-> Err(BusError(4))" ∧
    resultText (.sequenceError .order) = "-> Err(SequenceError(ORDER))" := by decide

/-! ### Well-formedness: an ill-formed term for each check -/

/-- R69 (T-WIN-7, T-WIN-8, T-WIN-10): each inequality of each axis, for FLUSH and SET_WINDOW. -/
theorem test_wf_refuses_windows :
    (Instr.flush ⟨5#16, 4#16, 0#16, 0#16⟩).wf defaultCfg .deg0 = false ∧
    (Instr.flush ⟨0#16, 128#16, 0#16, 0#16⟩).wf defaultCfg .deg0 = false ∧
    (Instr.flush ⟨0#16, 0#16, 1#16, 0#16⟩).wf defaultCfg .deg0 = false ∧
    (Instr.flush ⟨0#16, 0#16, 0#16, 128#16⟩).wf defaultCfg .deg0 = false ∧
    (Instr.setWindow ⟨5#16, 4#16, 0#16, 0#16⟩).wf defaultCfg .deg0 = false ∧
    (Instr.setWindow ⟨0#16, 128#16, 0#16, 0#16⟩).wf defaultCfg .deg0 = false ∧
    (Instr.setWindow ⟨0#16, 0#16, 1#16, 0#16⟩).wf defaultCfg .deg0 = false ∧
    (Instr.setWindow ⟨0#16, 0#16, 0#16, 128#16⟩).wf defaultCfg .deg0 = false ∧
    (Instr.setWindow ⟨0#16, 319#16, 0#16, 239#16⟩).wf wideCfg .deg90 = false := by decide

/-- R69 on one axis, for the range frames. -/
theorem test_wf_refuses_ranges :
    (Instr.colRange 1#16 0#16).wf defaultCfg .deg0 = false ∧ (Instr.colRange 0#16 128#16).wf defaultCfg .deg0 = false ∧
    (Instr.colRange 0#16 240#16).wf wideCfg .deg90 = false ∧
    (Instr.rowRange 1#16 0#16).wf defaultCfg .deg0 = false ∧ (Instr.rowRange 0#16 128#16).wf defaultCfg .deg0 = false ∧
    (Instr.rowRange 0#16 240#16).wf wideCfg .deg0 = false := by decide

/-- The largest windows (T-WIN-4, T-WIN-9, T-WIN-10) are well-formed. -/
theorem test_wf_accepts :
    (Instr.flush ⟨0#16, 127#16, 0#16, 127#16⟩).wf defaultCfg .deg0 = true ∧
    (Instr.setWindow ⟨127#16, 127#16, 127#16, 127#16⟩).wf defaultCfg .deg270 = true ∧
    (Instr.setWindow ⟨0#16, 319#16, 0#16, 239#16⟩).wf wideCfg .deg180 = true ∧
    (Instr.setWindow ⟨0#16, 239#16, 0#16, 319#16⟩).wf wideCfg .deg90 = true ∧
    (Instr.colRange 239#16 239#16).wf wideCfg .deg270 = true ∧ (Instr.rowRange 0#16 319#16).wf wideCfg .deg90 = true ∧
    [Instr.hwReset, .init .deg0 .bgr, .send 0#8 [], .gammaA, .memWrite, .displayOn].all (·.wf defaultCfg .deg0) = true := by
  decide

/-- R284: a parameter set that violates one constraint, for each constraint of Table 00-A and of R158. -/
theorem test_parameter_checks :
    cfgWf { defaultCfg with nativeW := 127#16 } = false ∧ cfgWf { defaultCfg with nativeH := 129#16 } = false ∧
    cfgWf { defaultCfg with xOffset := 1#16 } = false ∧ cfgWf { defaultCfg with virtH := 127#16 } = false ∧
    cfgWf { defaultCfg with maxXfer := some 15 } = false ∧ cfgWf { defaultCfg with maxXfer := some 16 } = true ∧
    delaysWf { defaultDelays with rstAssert := 0 } = false ∧ delaysWf { defaultDelays with rstHold := 9 } = false ∧
    delaysWf { defaultDelays with rstSettle := 119 } = false ∧ delaysWf { defaultDelays with sleepExit := 119 } = false ∧
    delaysWf { defaultDelays with displayOn := 119 } = false ∧ masksWf { defaultMasks with mx := 0x80#8 } = false ∧
    masksWf { defaultMasks with rgb := 0x03#8 } = false ∧ cmdWf { defaultCmd with memWrite := 0x2A#8 } = false ∧
    payloadWf { defaultPayload with gammaA := [0x00#8] } = false ∧
    payloadWf { defaultPayload with powerCtrl1 := List.replicate 17 0x00#8 } = false ∧
    preseedWf defaultCfg ⟨0#16, 128#16, 0#16, 127#16⟩ = false ∧ preseedWf wideCfg ⟨0#16, 240#16, 0#16, 0#16⟩ = false ∧
    preseedWf wideCfg ⟨0#16, 239#16, 2#16, 1#16⟩ = false := by decide

/-- The default parameter set of Table 00-A is well-formed; so is the one of T-INIT-5. -/
theorem test_parameters_ok :
    parametersWf defaultCfg defaultParams = true ∧
    parametersWf { defaultCfg with virtW := 130#16, virtH := 130#16, xOffset := 2#16, yOffset := 1#16 }
      { defaultParams with preseed := ⟨2#16, 129#16, 1#16, 128#16⟩ } = true := by decide

/-! ### HW_RESET -/

/-- T-RST-9: the trace shows the requested values, NOW the drawn ones. -/
theorem test_hw_reset :
    runs .hwReset { State.reset with env := [.ok 0, .ok 1, .ok 0, .ok 5, .ok 380] }
      "RST:A SLEEP:1 RST:D SLEEP:10 SLEEP:120" .ok
      (fun t => decide (t.life = .resetDone ∧ t.rst = .deassert ∧ t.winValid = false ∧ t.xfers = 0 ∧ t.now = 517)) = true := by
  decide

/-- T-RST-3: the panel is left held in reset. -/
theorem test_hw_reset_aborts :
    runs .hwReset { State.reset with env := failAt 2 } "RST:A SLEEP:1 RST:D!" (.sequenceError .gpioRst)
      (fun t => decide (t.life = .unreset ∧ t.rst = .assert ∧ t.now = 1)) = true := by decide

/-! ### INITIALIZE and its slots -/

set_option maxRecDepth 8000 in
/-- P1: the golden sequence of the default parameter set. -/
theorem test_initialize :
    runs (.init .deg0 .rgb) (lifeState .resetDone [])
      ("DC:L C:B1 DC:H D:01 2C 2D DC:L C:B2 DC:H D:01 2C 2D DC:L C:B3 DC:H D:01 2C 2D 01 2C 2D DC:L C:B4 DC:H D:07 " ++
       "DC:L C:C0 DC:H D:A2 02 84 DC:L C:C1 DC:H D:C5 DC:L C:C2 DC:H D:0A 00 DC:L C:C3 DC:H D:8A 2A " ++
       "DC:L C:C4 DC:H D:8A EE DC:L C:C5 DC:H D:0E " ++
       "DC:L C:E0 DC:H D:02 1C 07 12 37 32 29 2D 29 25 2B 39 00 01 03 10 " ++
       "DC:L C:E1 DC:H D:03 1D 07 06 2E 2C 29 2D 2E 2E 37 3F 00 00 02 10 " ++
       "DC:L C:3A DC:H D:05 DC:L C:36 DC:H D:C8 DC:L C:2A DC:H D:00 00 00 7F DC:L C:2B DC:H D:00 00 00 7F " ++
       "DC:L C:11 SLEEP:120 DC:L C:29 SLEEP:120") .ok
      (fun t => decide (t.life = .ready ∧ t.rot = .deg0 ∧ t.cord = .rgb ∧ t.win = ⟨0#16, 127#16, 0#16, 127#16⟩ ∧
        t.winValid = true ∧ t.step = 18#5 ∧ t.xfers = 34 ∧ t.dc = .low ∧ t.now = 240)) = true := by decide

/-- T-ERR-4: the first settle delay fails; WIN is programmed but not valid. -/
theorem test_initialize_aborts :
    after (exec (.init .deg90 .bgr) (lifeState .resetDone (failAt 66)))
      (fun t => decide (t.err = .sequenceError .delay ∧ t.life = .failed ∧ t.step = 16#5 ∧ t.xfers = 33 ∧
        t.win = ⟨0#16, 127#16, 0#16, 127#16⟩ ∧ t.winValid = false ∧ t.trace.length = 67 ∧
        t.rot = .deg90 ∧ t.cord = .bgr ∧ t.busy = false)) = true := by decide

/-- R159, R160, R161. -/
theorem test_frame_rate :
    runs .frameRateA (slotState 0 []) "DC:L C:B1 DC:H D:01 2C 2D" .ok (fun t => decide (t.step = 1#5 ∧ t.xfers = 2)) = true ∧
    runs .frameRateB (slotState 1 []) "DC:L C:B2 DC:H D:01 2C 2D" .ok (fun t => decide (t.step = 2#5)) = true ∧
    runs .frameRateC (slotState 2 []) "DC:L C:B3 DC:H D:01 2C 2D 01 2C 2D" .ok (fun t => decide (t.step = 3#5)) = true := by
  decide

/-- R162 to R168. -/
theorem test_power_and_vcom :
    runs .inversionCtrl (slotState 3 []) "DC:L C:B4 DC:H D:07" .ok (fun t => decide (t.step = 4#5)) = true ∧
    runs .powerCtrl1 (slotState 4 []) "DC:L C:C0 DC:H D:A2 02 84" .ok (fun t => decide (t.step = 5#5)) = true ∧
    runs .powerCtrl2 (slotState 5 []) "DC:L C:C1 DC:H D:C5" .ok (fun t => decide (t.step = 6#5)) = true ∧
    runs .powerCtrl3 (slotState 6 []) "DC:L C:C2 DC:H D:0A 00" .ok (fun t => decide (t.step = 7#5)) = true ∧
    runs .powerCtrl4 (slotState 7 []) "DC:L C:C3 DC:H D:8A 2A" .ok (fun t => decide (t.step = 8#5)) = true ∧
    runs .powerCtrl5 (slotState 8 []) "DC:L C:C4 DC:H D:8A EE" .ok (fun t => decide (t.step = 9#5)) = true ∧
    runs .vcomLevel (slotState 9 []) "DC:L C:C5 DC:H D:0E" .ok (fun t => decide (t.step = 10#5)) = true := by decide

/-- R169, R170, R171, R172 (270°, RGB: A8). -/
theorem test_gamma_to_orientation :
    runs .gammaA (slotState 10 []) "DC:L C:E0 DC:H D:02 1C 07 12 37 32 29 2D 29 25 2B 39 00 01 03 10" .ok
      (fun t => decide (t.step = 11#5)) = true ∧
    runs .gammaB (slotState 11 []) "DC:L C:E1 DC:H D:03 1D 07 06 2E 2C 29 2D 2E 2E 37 3F 00 00 02 10" .ok
      (fun t => decide (t.step = 12#5)) = true ∧
    runs .pixelFormat (slotState 12 []) "DC:L C:3A DC:H D:05" .ok (fun t => decide (t.step = 13#5)) = true ∧
    runs .orientation (slotState 13 []) "DC:L C:36 DC:H D:A8" .ok (fun t => decide (t.step = 14#5)) = true := by decide

/-- R173, R174: the pre-seed, with the mirror. -/
theorem test_preseed :
    runs (.colRange 0#16 127#16) (slotState 14 []) "DC:L C:2A DC:H D:00 00 00 7F" .ok
      (fun t => decide (t.step = 15#5 ∧ t.win.xe = 127#16 ∧ t.win.ye = 0#16 ∧ t.winValid = false)) = true ∧
    runs (.rowRange 0#16 127#16) (slotState 15 []) "DC:L C:2B DC:H D:00 00 00 7F" .ok
      (fun t => decide (t.step = 16#5 ∧ t.win.ye = 127#16 ∧ t.winValid = true)) = true := by decide

/-- R106: PRESEED is slots 14 and 15 of an INITIALIZE; a SET_WINDOW in progress or an idle handle does not run it. -/
theorem test_preseed_pseudo_operation :
    after (preseed (slotState 14 [])) (fun t => decide (traceText (newEntries (slotState 14 []) t) =
      "DC:L C:2A DC:H D:00 00 00 7F DC:L C:2B DC:H D:00 00 00 7F" ∧ t.step = 16#5 ∧ t.winValid = true)) = true ∧
    refusalOf (preseed (windowState [])) = some .frameNotIssuableAlone ∧
    refusalOf (preseed (lifeState .resetDone [])) = some .frameNotIssuableAlone := by decide

/-- R175, R176: the frame, then the settle delay with its overshoot. -/
theorem test_sleep_exit_display_on :
    runs .sleepExit (slotState 16 [.ok 0, .ok 0, .ok 7]) "DC:L C:11 SLEEP:120" .ok
      (fun t => decide (t.step = 17#5 ∧ t.now = 127 ∧ t.dc = .low)) = true ∧
    runs .displayOn (slotState 17 []) "DC:L C:29 SLEEP:120" .ok (fun t => decide (t.step = 18#5 ∧ t.now = 120)) = true := by
  decide

/-- A slot whose transfer fails aborts the INITIALIZE (T-ERR-3: the orientation byte). -/
theorem test_slot_aborts :
    runs .orientation { slotState 13 (failAt 3) with xfers := 26 } "DC:L C:36 DC:H D:A8!" (.busError 27)
      (fun t => decide (t.life = .failed ∧ t.step = 13#5 ∧ t.xfers = 27 ∧ t.dc = .high ∧ t.busy = false)) = true := by decide

/-! ### SEND -/

/-- T-SEND-3. -/
theorem test_send :
    runs (.send 0x2A#8 [0x00#8, 0x00#8, 0x00#8, 0x53#8]) (readyState []) "DC:L C:2A DC:H D:00 00 00 53" .ok
      (fun t => decide (t.dc = .high ∧ t.xfers = 2 ∧ t.winValid = false)) = true := by decide

/-- T-SEND-5. -/
theorem test_send_aborts :
    runs (.send 0x3A#8 [0x05#8]) (readyState (failAt 1)) "DC:L C:3A!" (.busError 0)
      (fun t => decide (t.dc = .low ∧ t.xfers = 0)) = true := by decide

/-! ### The window protocol -/

/-- T-WIN-6: high bytes above 255. -/
theorem test_set_window :
    runs (.setWindow ⟨250#16, 259#16, 0#16, 0#16⟩) { readyState [] with cfg := wideCfg }
      "DC:L C:2A DC:H D:00 FA 01 03 DC:L C:2B DC:H D:00 00 00 00 DC:L C:2C" .ok
      (fun t => decide (t.win = ⟨250#16, 259#16, 0#16, 0#16⟩ ∧ t.winValid = true ∧ t.dc = .low ∧ t.xfers = 5)) = true := by
  decide

/-- T-WIN-11: columns new, rows old. -/
theorem test_set_window_aborts :
    runs (.setWindow ⟨0#16, 83#16, 0#16, 83#16⟩) (readyState (failAt 5)) "DC:L C:2A DC:H D:00 00 00 53 DC:L C:2B!" (.busError 2)
      (fun t => decide (t.win = ⟨0#16, 83#16, 0#16, 127#16⟩ ∧ t.winValid = false ∧ t.life = .ready)) = true := by decide

/-- R201, R202, R203: their worked examples, in a SET_WINDOW in progress. -/
theorem test_window_frames :
    runs (.colRange 0#16 83#16) (windowState []) "DC:L C:2A DC:H D:00 00 00 53" .ok
      (fun t => decide (t.win.xe = 83#16 ∧ t.win.ye = 127#16 ∧ t.busy = true)) = true ∧
    runs (.rowRange 0#16 83#16) (windowState []) "DC:L C:2B DC:H D:00 00 00 53" .ok
      (fun t => decide (t.win.xe = 127#16 ∧ t.win.ye = 83#16)) = true ∧
    runs .memWrite (windowState []) "DC:L C:2C" .ok (fun t => decide (t.xfers = 1 ∧ t.dc = .low)) = true := by decide

/-- R202: on error WIN is not updated. -/
theorem test_window_frame_aborts :
    runs (.rowRange 0#16 83#16) (windowState (failAt 3)) "DC:L C:2B DC:H D:00 00 00 53!" (.busError 1)
      (fun t => decide (t.win.ye = 127#16 ∧ t.busy = false ∧ t.life = .ready)) = true := by decide

/-! ### FLUSH -/

/-- T-PIX-3: row 20 to 22, columns 10 to 12, chunks of 16 bytes. -/
theorem test_flush_chunked :
    runs (.flush ⟨10#16, 12#16, 20#16, 22#16⟩)
      { readyState [] with
        cfg := { defaultCfg with maxXfer := some 16 }
        fb := [(2570, 0x5415#16), (2571, 0x5516#16), (2572, 0x5617#16), (2698, 0x6415#16), (2699, 0x6516#16),
          (2700, 0x6617#16), (2826, 0x7415#16), (2827, 0x7516#16), (2828, 0x7617#16)] }
      ("DC:L C:2A DC:H D:00 0A 00 0C DC:L C:2B DC:H D:00 14 00 16 DC:L C:2C DC:H " ++
       "D:54 15 55 16 56 17 64 15 65 16 66 17 74 15 75 16 D:76 17") .ok
      (fun t => decide (t.pix = 9 ∧ t.xfers = 7 ∧ t.dc = .high ∧ t.winValid = true ∧ t.txbuf = [])) = true := by decide

/-- T-ERR-8: the pixel payload's transfer fails. -/
theorem test_flush_aborts :
    runs (.flush ⟨0#16, 1#16, 0#16, 1#16⟩) { readyState (failAt 11) with fb := smallImage }
      ("DC:L C:2A DC:H D:00 00 00 01 DC:L C:2B DC:H D:00 00 00 01 DC:L C:2C " ++
       "DC:H D:F8 00 07 E0 00 1F FF FF!") (.busError 5)
      (fun t => decide (t.life = .ready ∧ t.win = ⟨0#16, 1#16, 0#16, 1#16⟩ ∧ t.winValid = false ∧ t.pix = 4 ∧ t.xfers = 5 ∧
        t.txbuf = [] ∧ t.fb = smallImage)) = true := by decide

/-- P6: the row length is VIRT_H under the axis swap; the same parameters refuse the window of T-PIX-6. -/
theorem test_flush_swapped_axes :
    (windowAddresses wideCfg .deg90 ⟨230#16, 239#16, 300#16, 300#16⟩).head? = some 72230 ∧
    (windowAddresses wideCfg .deg90 ⟨230#16, 239#16, 300#16, 300#16⟩).getLast? = some 72239 ∧
    windowWf wideCfg .deg90 ⟨230#16, 239#16, 300#16, 300#16⟩ = true ∧
    windowWf wideCfg .deg90 ⟨250#16, 259#16, 0#16, 0#16⟩ = false ∧
    windowWf wideCfg .deg0 ⟨250#16, 259#16, 0#16, 0#16⟩ = true := by decide

/-! ### Lifecycle, requests, SINK -/

/-- T-LIFE-2, T-LIFE-12: in UNRESET a well-formed FLUSH is rejected, an ill-formed one refused; T-LIFE-4. -/
theorem test_lifecycle :
    after (exec (.flush ⟨0#16, 0#16, 0#16, 0#16⟩) State.reset)
      (fun t => decide (t = { State.reset with err := .sequenceError .order })) = true ∧
    refusalOf (exec (.flush ⟨5#16, 4#16, 0#16, 0#16⟩) State.reset) = some .illFormedWindow ∧
    after (exec (.init .deg180 .bgr) (readyState []))
      (fun t => decide (t = { readyState [] with err := .sequenceError .order })) = true := by decide

/-- The stops of NOTES.md, each at a state. -/
theorem test_refusals :
    refusalOf (exec .hwReset { State.reset with attached := false }) = some .noPanelHandle ∧
    refusalOf (exec .hwReset { State.reset with par := { defaultParams with delays := { defaultDelays with rstHold := 9 } } }) =
      some .illFormedParameters ∧
    refusalOf (exec .hwReset { State.reset with busy := true }) = some .busy ∧
    [16383, 16385].all (fun n => decide (refusalOf (exec (.flush ⟨0#16, 0#16, 0#16, 0#16⟩) { readyState [] with fbPixels := n }) =
      some .frameBufferSize)) = true ∧
    refusalOf (exec .gammaA State.reset) = some .frameNotIssuableAlone ∧
    refusalOf (step { State.reset with requests := [.hostOp [0x06#8]] }) = some (.illegalDescriptor .reservedSelector) ∧
    refusalOf (step { State.reset with requests := [.setPixel 16384 0x1234#16] }) = some .noSuchPixel := by decide

/-- A step fetches the placed word and runs it (HW_RESET; ORIENTATION at slot 13; COL_RANGE). -/
theorem test_fetch_word :
    after (step (State.reset.withFetchWord 8 0x01)) (fun t => decide (t.life = .resetDone ∧ t.requests = [])) = true ∧
    after (step (State.reset.withFetchWord 8 0x36)) (fun t => decide (t.step = 14#5 ∧ t.xfers = 2)) = true ∧
    after (step (State.reset.withFetchWord 40 0x7F0000002A)) (fun t => decide (t.win.xe = 127#16)) = true := by decide

/-- R77, R61: the host's writes; a blank pixel is not listed. -/
theorem test_host_writes :
    writePixel (writePixel [] 129 0xFFFF#16) 0 0xF800#16 = [(0, 0xF800#16), (129, 0xFFFF#16)] ∧
    writePixel smallImage 128 blankPixel = [(0, 0xF800#16), (1, 0x07E0#16), (129, 0xFFFF#16)] ∧
    after (step { State.reset with requests := [.setPixel 16383 0xABCD#16] })
      (fun t => decide (t.fb = [(16383, 0xABCD#16)] ∧ t.requests = [])) = true := by decide

/-- T-SINK-1 and T-SINK-4: four pixels fill the window; a fifth is written past its end (R83) and makes SINK unknown. -/
theorem test_sink :
    let wireOf (bs : List Byte) : List Entry := okEntries
      (setWindowCalls defaultCmd ⟨0#16, 1#16, 0#16, 1#16⟩ ++ [.gpioDc .high, .busXfer .high bs])
    let four : List Byte := [0xF8#8, 0x00#8, 0x07#8, 0xE0#8, 0x00#8, 0x1F#8, 0xFF#8, 0xFF#8]
    let k := { Sink.unknown with known := true }.feedAll defaultCmd 128 128 (wireOf four)
    let overrun := { Sink.unknown with known := true }.feedAll defaultCmd 128 128 (wireOf (four ++ [0x12#8, 0x34#8]))
    gramAt k.gram 0 0 = some 0xF800#16 ∧ gramAt k.gram 1 0 = some 0x07E0#16 ∧ gramAt k.gram 0 1 = some 0x001F#16 ∧
    gramAt k.gram 1 1 = some 0xFFFF#16 ∧ k.known = true ∧ overrun.known = false ∧ gramAt overrun.gram 0 0 = none ∧
    gramAt overrun.gram 0 2 = some 0x1234#16 ∧ (overrun.cx, overrun.cy) = (1, 2) := by
  decide

/-- R38, R206, U2: a SET_WINDOW that stops at its second DC drive (the column range half-sent) or at a transfer leaves SINK's
window, cursor and memory unknown; the next successful one makes the window known again, `known` stays false (T-SINK-3). -/
theorem test_sink_interrupted :
    let full : Sink := { Sink.unknown with known := true, colsSure := true, rowsSure := true, gram := [((5, 5), 0xF800#16)] }
    let w : Window := ⟨0#16, 1#16, 0#16, 1#16⟩
    let run (n : Nat) : Sink := full.observe (readyState (failAt n)) (stateOf (exec (.setWindow w) (readyState (failAt n))) State.reset)
    let again (n : Nat) : Sink := (run n).observe (readyState []) (stateOf (exec (.setWindow w) (readyState [])) State.reset)
    [0, 1, 2, 3, 6].all (fun n => decide ((run n).known = false ∧ (run n).colsSure = false ∧ (run n).rowsSure = false ∧
      gramAt (run n).gram 5 5 = none ∧ (again n).known = false ∧ (again n).colsSure = true ∧ (again n).rowsSure = true ∧
      (again n).sxe = 1#16)) = true := by decide

/-- R40, U10: SINK after a range frame sent by SEND in RESET_DONE is the same whatever ROT holds there. -/
theorem test_sink_ignores_stale_rotation :
    let s (r : Rotation) : State := { lifeState .resetDone [] with rot := r, cfg := wideCfg }
    let run (r : Rotation) : Sink := Sink.unknown.observe (s r)
      (stateOf (exec (.send 0x2A#8 [0x00#8, 0x00#8, 0x01#8, 0x2C#8]) (s r)) State.reset)
    (run .deg0).colsSure = false ∧ (run .deg0).sxe = 300#16 ∧ [Rotation.deg90, .deg180, .deg270].all (fun r =>
      decide (run r = run .deg0)) = true := by decide

/-- R73: the visible window under the four rotations, with offsets that differ. -/
theorem test_visible_window :
    let g := { wideCfg with xOffset := 2#16, yOffset := 1#16 }
    [Rotation.deg0, .deg180].all (fun r => decide (visibleWindow g r = ⟨2#16, 129#16, 1#16, 128#16⟩)) = true ∧
    [Rotation.deg90, .deg270].all (fun r => decide (visibleWindow g r = ⟨1#16, 128#16, 2#16, 129#16⟩)) = true := by decide

/-- R80: block reset (an attach) makes SINK unknown; a detach does not. -/
theorem test_sink_block_reset :
    let s := { readyState [] with requests := [.attach defaultCfg defaultParams] }
    let k := { Sink.unknown with known := true, gram := [((0, 0), 0xF800#16)] }
    (k.observe s (stateOf (step s) s)).known = false ∧ gramAt (k.observe s (stateOf (step s) s)).gram 0 0 = none ∧
    (k.observe { s with requests := [.detach] } { s with attached := false }).known = true := by decide

/-! ### Witnesses

For every obligation with hypotheses, concrete states and operands that meet them together, one conjunct per clause or
boundary value, in the order of the obligations. An environment whose answers are used up answers `ok`
(notes/assumptions/1.md), so the empty list meets every `answersOk`. -/

theorem exists_next {o : Out} {P : State → Prop} [DecidablePred P] (h : after o (fun t => decide (P t)) = true) :
    ∃ t, o = .next t ∧ P t :=
  ⟨stateOf o State.reset, next_stateOf h _, by cases o <;> simp_all [after, stateOf]⟩

/-- The one-pixel windows at the two ends of the default extents. -/
def firstPixel : Window := ⟨0#16, 0#16, 0#16, 0#16⟩
def lastPixel : Window := ⟨127#16, 127#16, 127#16, 127#16⟩

/-- Five calls that answer `ok`, one with an overshoot, and then one that fails. -/
def fiveThenFail : List Answer := [.ok 0, .ok 3, .ok 0, .ok 0, .ok 0, .fail]

/-- The state P1 ends in, run from block reset. -/
def poweredOn : State := stateOf (resetAndInit .deg0 .rgb State.reset) State.reset

theorem witness_DecodeInvertsEncode : cmdWf defaultCmd = true := by decide

theorem witness_EncodeInvertsDecode :
    decode defaultCmd (.host [0x01#8]) = .ok .hwReset ∧ decode defaultCmd (.frame [0x2C#8]) = .ok .memWrite :=
  ⟨rfl, rfl⟩

theorem witness_ReservedSelectorsAreRefused :
    [0#8, 6#8, 7#8].all (fun sel =>
      decide ({ State.reset with requests := [.hostOp [sel]] }.requests = Request.hostOp (sel :: []) :: [] ∧
        (sel = 0#8 ∨ sel = 6#8 ∨ sel = 7#8))) = true := by decide

theorem witness_FramesAreRecoveredFromTheWire :
    (Frame.mk 0x2C#8 []).data = [] ∧ (Frame.mk 0x3A#8 [0x05#8]).data ≠ [] := by decide

theorem witness_OrientationByteIsInjective : masksWf defaultMasks = true := by decide

theorem witness_StepRunsTheDecodedInstruction :
    State.reset.requests = [] ∧
    decode State.reset.par.cmd (.host [0x01#8]) = .ok .hwReset ∧
    decode State.reset.par.cmd (.frame [0x36#8]) = .ok .orientation ∧
    requestOf (encode State.reset.par.cmd .orientation) = .frame [0x36#8] ∧
    cmdWf State.reset.par.cmd = true ∧
    decode State.reset.par.cmd (.host [0x02#8, 0x04#8, 0x00#8]) = .error .rotationCode ∧
    decode State.reset.par.cmd (.frame [0x2C#8, 0x00#8]) = .error .wrongLength :=
  ⟨rfl, rfl, rfl, rfl, by decide, rfl, rfl⟩

theorem witness_AdmissionAndLifecycle :
    [Life.unreset, .resetDone, .ready, .failed].all (fun l => idle (lifeState l []) && windowOk (lifeState l []) lastPixel) =
      true ∧
    (∃ t, exec .hwReset (lifeState .failed []) = .next t) ∧
    (∃ t, exec (.init .deg90 .bgr) (lifeState .resetDone []) = .next t) ∧
    (∃ t, exec (.flush lastPixel) (lifeState .ready []) = .next t) ∧
    (∃ t, exec (.setWindow firstPixel) (lifeState .ready []) = .next t) ∧
    (∃ t, exec (.send 0x2C#8 []) (lifeState .resetDone []) = .next t) ∧
    (∃ t, exec (.send 0x2C#8 []) (lifeState .ready []) = .next t) := by
  refine ⟨by decide, ?_, ?_, ?_, ?_, ?_, ?_⟩ <;>
    exact ⟨_, next_stateOf (f := fun _ => true) (by decide) State.reset⟩

theorem witness_HwResetCompletes :
    [Life.unreset, .resetDone, .ready, .failed].all (fun l =>
      idle (lifeState l fiveThenFail) && answersOk 5 (lifeState l fiveThenFail)) = true := by decide

theorem witness_HwResetAborts :
    (List.range 5).all (fun n => idle (lifeState .ready (failAt n)) && failsAfter n (lifeState .ready (failAt n))) = true ∧
    ∃ t, exec .hwReset (lifeState .ready (failAt 2)) = .next t ∧ t.err ≠ .ok ∧
      operandsOk (.flush lastPixel) t = true ∧ operandsOk (.init .deg0 .rgb) t = true :=
  ⟨by decide, exists_next (by decide)⟩

theorem witness_HwResetLineOrderAndWaits :
    ∃ t, exec .hwReset (lifeState .failed [.ok 0, .ok 9]) = .next t ∧ t.err = .ok := exists_next (by decide)

theorem witness_NoTransferInUnresetOrFailed :
    (∃ t, exec .hwReset (readyState []) = .next t ∧ t.err = .ok) ∧
    (∃ t, exec (.send 0x2C#8 []) State.reset = .next t ∧ State.reset.life = .unreset) ∧
    (∃ t, exec (.flush firstPixel) (lifeState .failed []) = .next t ∧ (lifeState .failed []).life = .failed) :=
  ⟨exists_next (by decide), exists_next (by decide), exists_next (by decide)⟩

theorem witness_InitializeCompletes :
    idle (lifeState .resetDone (List.replicate 70 (.ok 1))) = true ∧
    (lifeState .resetDone (List.replicate 70 (.ok 1))).life = .resetDone ∧
    answersOk (initCalls defaultParams .deg270 .rgb).length (lifeState .resetDone (List.replicate 70 (.ok 1))) = true := by
  decide

theorem witness_InitializeAborts :
    [0, 57, 58, 69].all (fun n =>
      idle (lifeState .resetDone (failAt n)) && decide (n < (initCalls defaultParams .deg90 .bgr).length) &&
        failsAfter n (lifeState .resetDone (failAt n))) = true ∧
    ∃ t, exec (.init .deg90 .bgr) (lifeState .resetDone (failAt 8)) = .next t ∧ t.err ≠ .ok ∧
      operandsOk (.setWindow firstPixel) t = true :=
  ⟨by decide, exists_next (by decide)⟩

theorem witness_GoldenSequenceDiffersInOneByte :
    (lifeState .resetDone []).par = (lifeState .resetDone [.ok 4]).par ∧ (Rotation.deg0, ColorOrder.rgb) ≠ (.deg90, .bgr) ∧
    (∃ s', exec (.init .deg0 .rgb) (lifeState .resetDone []) = .next s' ∧ s'.err = .ok) ∧
    (∃ t', exec (.init .deg90 .bgr) (lifeState .resetDone [.ok 4]) = .next t' ∧ t'.err = .ok) :=
  ⟨rfl, by decide, exists_next (by decide), exists_next (by decide)⟩

/-- Whether a row of Table 42-A is in its place in the INITIALIZE of `slotState`, with all its calls answered. -/
def slotReady (x : SlotCase) : Bool :=
  let s := slotState x.number [.ok 0, .ok 0, .ok 5, .ok 0]
  decide (x ∈ slotCases s.par s.rot s.cord) && inProgress s && decide (s.life = .resetDone ∧ s.step.toNat = x.number) &&
    answersOk x.calls.length s && answersOk (frameCalls x.frame).length s

theorem witness_FrameRateToVcomSlotsComplete :
    ((slotCases defaultParams .deg270 .rgb).take 10).length = 10 ∧
    ((slotCases defaultParams .deg270 .rgb).take 10).all (fun x => slotReady x && decide (x.number ≤ 9)) = true := by
  decide

theorem witness_GammaToOrientationSlotsComplete :
    (((slotCases defaultParams .deg270 .rgb).drop 10).take 4).length = 4 ∧
    (((slotCases defaultParams .deg270 .rgb).drop 10).take 4).all
      (fun x => slotReady x && decide (10 ≤ x.number ∧ x.number ≤ 13)) = true := by decide

theorem witness_PreseedSlotsComplete :
    [14, 15].all (fun k => inProgress (slotState k fiveThenFail) && answersOk 4 (slotState k fiveThenFail)) = true ∧
    (slotState 14 fiveThenFail).step = 14#5 ∧ (slotState 15 fiveThenFail).step = 15#5 := by decide

theorem witness_SleepExitAndDisplayOnComplete :
    [16, 17].all (fun k => inProgress (slotState k fiveThenFail) && answersOk 3 (slotState k fiveThenFail)) = true ∧
    (slotState 16 fiveThenFail).step = 16#5 ∧ (slotState 17 fiveThenFail).step = 17#5 := by decide

theorem witness_SlotsAbortTheirInitialize :
    (slotCases defaultParams .deg270 .rgb).all (fun x => slotReady x &&
      [0, x.calls.length - 1].all fun n =>
        inProgress (slotState x.number (failAt n)) && decide (n < x.calls.length) &&
          failsAfter n (slotState x.number (failAt n))) = true := by decide

theorem witness_FramesAreNotIssuableAlone :
    idle (readyState []) = true ∧ isOperation .memWrite = false ∧
    inProgress (slotState 18 []) = true ∧ (slotState 18 []).life = .resetDone ∧ (slotState 18 []).step.toNat ≠ 17 ∧
    inProgress { slotState 0 [] with life := .failed } = true ∧ isOperation .frameRateA = false ∧
    inProgress (slotState 14 []) = true ∧ (1#16 : Half) ≠ (slotState 14 []).par.preseed.xs ∧
    (126#16 : Half) ≠ (slotState 15 []).par.preseed.ye ∧
    inProgress (windowState []) = true ∧ (windowState []).life = .ready ∧ isOperation .displayOn = false ∧
    Instr.displayOn ≠ .memWrite := by decide

theorem witness_InitializeIsItsSlotsInOrder :
    idle (lifeState .resetDone (failAt 8)) = true ∧ (lifeState .resetDone (failAt 8)).life = .resetDone := by decide

theorem witness_SendCompletes :
    [Life.resetDone, .ready].all (fun l => idle (lifeState l fiveThenFail) &&
      answersOk 2 (lifeState l fiveThenFail) && answersOk 4 (lifeState l fiveThenFail)) = true := by decide

theorem witness_SendAborts :
    [Life.resetDone, .ready].all (fun l => [0, 1, 2, 3].all fun n =>
      idle (lifeState l (failAt n)) && failsAfter n (lifeState l (failAt n))) = true := by decide

theorem witness_WindowFramesComplete :
    inProgress (windowState fiveThenFail) = true ∧ (windowState fiveThenFail).life = .ready ∧
    (0#16 : Half) ≤ 127#16 ∧ (127#16 : Half) ≤ 127#16 ∧ (127#16).toNat < colExtent defaultCfg .deg0 ∧
    (127#16).toNat < rowExtent defaultCfg .deg0 ∧ answersOk 4 (windowState fiveThenFail) = true ∧
    answersOk 2 (windowState fiveThenFail) = true := by decide

theorem witness_WindowFramesAbort :
    [(Instr.colRange 0#16 127#16, 0), (.colRange 0#16 0#16, 3), (.rowRange 127#16 127#16, 0), (.rowRange 0#16 0#16, 3),
      (.memWrite, 0), (.memWrite, 1)].all (fun x =>
      inProgress (windowState (failAt x.2)) && x.1.wf defaultCfg .deg0 && failsAfter x.2 (windowState (failAt x.2))) =
        true := by decide

theorem witness_SetWindowCompletes :
    idle (readyState (List.replicate 10 (.ok 0) ++ [.hang])) = true ∧
    [firstPixel, lastPixel, ⟨0#16, 127#16, 0#16, 127#16⟩].all (windowWf defaultCfg .deg0) = true ∧
    answersOk 10 (readyState (List.replicate 10 (.ok 0) ++ [.hang])) = true := by decide

theorem witness_SetWindowAborts :
    [0, 3, 4, 7, 8, 9].all (fun n => idle (readyState (failAt n)) && failsAfter n (readyState (failAt n)) &&
      windowWf (readyState (failAt n)).cfg (readyState (failAt n)).rot lastPixel) = true := by decide

theorem witness_SetWindowIsItsFramesInOrder :
    idle (readyState (failAt 4)) = true ∧ (readyState (failAt 4)).life = .ready ∧
    windowWf defaultCfg .deg0 firstPixel = true := by decide

theorem witness_ChunksAreGreedy : [0x01#8, 0x02#8, 0x03#8] ≠ [] ∧ 1 ≤ 1 ∧ 1 ≤ 3 ∧ 1 ≤ 4 := by decide

theorem witness_SerializeReadsRowMajor :
    windowWf defaultCfg .deg0 lastPixel = true ∧ windowWf defaultCfg .deg0 firstPixel = true ∧
    (readyState []).pix = 0 ∧ (readyState []).txbuf = [] ∧ 0 < windowWidth lastPixel * windowHeight lastPixel := by decide

theorem witness_FlushCompletes :
    idle (readyState (List.replicate 12 (.ok 0) ++ [.fail])) = true ∧
    (readyState []).fbPixels = frameBufferPixels defaultCfg .deg0 ∧
    [firstPixel, lastPixel].all (fun w => windowWf defaultCfg .deg0 w &&
      answersOk (flushCalls (readyState []) w).length (readyState (List.replicate 12 (.ok 0) ++ [.fail]))) = true := by
  decide

theorem witness_FlushAborts :
    [0, 3, 4, 7, 8, 9, 10, 11].all (fun n => idle (readyState (failAt n)) && failsAfter n (readyState (failAt n)) &&
      decide (n < (flushCalls (readyState (failAt n)) lastPixel).length)) = true ∧
    windowWf defaultCfg .deg0 lastPixel = true ∧ (readyState []).fbPixels = frameBufferPixels defaultCfg .deg0 := by decide

theorem witness_FlushCounts :
    (∃ t, exec (.flush lastPixel) (readyState []) = .next t ∧ t.err = .ok) ∧
    (∃ t, exec (.flush ⟨0#16, 8#16, 0#16, 0#16⟩) { readyState [] with cfg := { defaultCfg with maxXfer := some 16 } } =
      .next t ∧ t.err = .ok) :=
  ⟨exists_next (by decide), exists_next (by decide)⟩

/-- A whole frame, without evaluating its 16384 pixels: by the law of a finished operation. -/
theorem witness_FlushFullSendsTheVisibleWindow :
    cfgWf defaultCfg = true ∧
    cfgWf { wideCfg with xOffset := 192#16, yOffset := 112#16 } = true ∧
    (readyState []).rot = .deg0 ∧ { readyState [] with rot := .deg270 }.rot = .deg270 ∧
    ∃ t, flushFull (readyState []) = .next t ∧ t.err = .ok :=
  ⟨by decide, by decide, rfl, rfl, _, exec_finished (i := .flush (visibleWindow defaultCfg .deg0)) rfl (by decide) (by decide) rfl (by decide)
    (by simp [answersOk, readyState, lifeState]), rfl⟩

theorem witness_FlushTraceDependsOnPixelsOnly :
    (readyState []).par.cmd = { readyState [] with rot := .deg270 }.par.cmd ∧
    flushPixel (readyState []) lastPixel 0 = flushPixel { readyState [] with rot := .deg270 } lastPixel 0 ∧
    (∃ t, exec (.flush lastPixel) { readyState [] with rot := .deg270 } = .next t ∧ t.err = .ok) ∧
    (∃ t, exec (.flush lastPixel) (readyState []) = .next t ∧ t.err = .ok ∧
      after (exec (.flush lastPixel) t) (fun u => decide (u.err = .ok)) = true) :=
  ⟨rfl, by decide, exists_next (by decide), exists_next (by decide)⟩

theorem witness_ChunkingIsControllerEquivalent :
    [0x1D#8, 0x0E#8] ≠ [] ∧ 1 ≤ 1 ∧ 1 < [0x1D#8, 0x0E#8].length ∧ ¬2 < [0x1D#8, 0x0E#8].length := by decide

theorem witness_FlushFillsTheSink :
    (∃ t, exec (.flush ⟨0#16, 1#16, 0#16, 1#16⟩) { readyState [] with fb := smallImage } = .next t ∧ t.err = .ok) ∧
    { Sink.unknown with known := true }.known = true ∧
    ({ Sink.unknown with known := true }.writing && !{ Sink.unknown with known := true }.complete) = false :=
  ⟨exists_next (by decide), rfl, rfl⟩

theorem witness_ErrorsArePrecise :
    (∃ t, exec (.send 0x3A#8 [0x05#8]) (readyState (failAt 3)) = .next t ∧ t.err = .busError 1) ∧
    (∃ t, exec .memWrite (windowState []) = .next t ∧ t.err = .ok) :=
  ⟨exists_next (by decide), exists_next (by decide)⟩

theorem witness_RecoveryReachesReady :
    [Life.unreset, .resetDone, .ready, .failed].all (fun l => idle (lifeState l (List.replicate 75 (.ok 1))) &&
      answersOk (5 + (initCalls defaultParams .deg90 .bgr).length) (lifeState l (List.replicate 75 (.ok 1)))) = true ∧
    (readyState (failAt 11)).life = .ready ∧
    ∃ t, exec (.flush lastPixel) (readyState (failAt 11)) = .next t ∧ t.err ≠ .ok ∧
      answersOk (flushCalls (readyState []) lastPixel).length t = true :=
  ⟨by decide, rfl, exists_next (by decide)⟩

theorem witness_OnlyAMissingAnswerFaults :
    exec .hwReset { State.reset with env := [.ok 0, .hang] } = .fault .environmentHangs ∧
    exec .memWrite (windowState [.hang]) = .fault .environmentHangs := ⟨rfl, rfl⟩

theorem witness_IllFormedWindowIsRefused :
    (readyState []).life = .ready ∧ idle (readyState []) = true ∧ windowOk (readyState []) ⟨0#16, 128#16, 0#16, 0#16⟩ = false ∧
    windowOk (readyState []) ⟨1#16, 0#16, 0#16, 0#16⟩ = false ∧
    State.reset.life ≠ .ready ∧ idle State.reset = true ∧ windowOk State.reset ⟨0#16, 0#16, 0#16, 128#16⟩ = false ∧
    windowOk { State.reset with cfg := wideCfg } ⟨0#16, 319#16, 0#16, 0#16⟩ = true ∧
    windowOk { State.reset with cfg := wideCfg } ⟨0#16, 0#16, 0#16, 319#16⟩ = true ∧
    windowOk { State.reset with cfg := wideCfg } ⟨0#16, 319#16, 0#16, 319#16⟩ = false ∧
    inProgress (windowState []) = true ∧ (windowState []).life = .ready ∧
    ¬((0#16 : Half) ≤ 128#16 ∧ (128#16).toNat < colExtent defaultCfg .deg0) ∧
    ¬((1#16 : Half) ≤ 0#16 ∧ (0#16).toNat < rowExtent defaultCfg .deg0) := by decide

theorem witness_BusyHostIsRefused :
    inProgress (windowState []) = true ∧ inProgress (slotState 3 []) = true ∧ isOperation (.send 0#8 []) = true := by decide

theorem witness_IllFormedParametersAreRefused :
    { State.reset with cfg := { defaultCfg with maxXfer := some 15 } }.attached = true ∧
    parametersWf { defaultCfg with maxXfer := some 15 } defaultParams = false ∧ State.reset.busy = false ∧
    parametersWf { defaultCfg with maxXfer := some 16 } defaultParams = true := by decide

theorem witness_AttachAndDetach :
    { State.reset with requests := [.attach wideCfg defaultParams] }.requests = [.attach wideCfg defaultParams] ∧
    (readyState []).busy = false ∧ parametersWf wideCfg defaultParams = true ∧
    { readyState [] with requests := [.detach] }.attached = true ∧
    { readyState [] with attached := false }.attached = false := by decide

theorem witness_HostWriteChangesOnePixel :
    { readyState [] with requests := [.setPixel 16383 blankPixel] }.busy = false ∧
    16383 < { readyState [] with requests := [.setPixel 16383 blankPixel] }.fbPixels ∧ Memory.wf smallImage = true := by
  decide

/-- For NoInstructionWritesConfigurationOrFrameBuffer, OnlyInitializeWritesOrientation and ProgramCountersAdvanceAsStated,
whose hypotheses are that an instruction answers a next state and, in their clauses, which instruction it is and LIFE. -/
theorem witness_every_next :
    (∃ t, exec (.init .deg90 .bgr) (lifeState .resetDone []) = .next t ∧ t.err = .ok) ∧
    (∃ t, exec (.init .deg90 .bgr) (lifeState .resetDone (failAt 8)) = .next t ∧ t.step = 2#5) ∧
    (∃ t, exec (.init .deg90 .bgr) (readyState []) = .next t ∧ t.rot = .deg0) ∧
    (∃ t, exec (.flush lastPixel) (readyState (failAt 9)) = .next t ∧ t.pix = 0) ∧
    (∃ t, exec .hwReset (readyState []) = .next t ∧ t.step = 18#5) ∧
    (∃ t, exec (.colRange 0#16 0#16) (windowState []) = .next t ∧ t.fb = []) :=
  ⟨exists_next (by decide), exists_next (by decide), exists_next (by decide), exists_next (by decide),
    exists_next (by decide), exists_next (by decide)⟩

theorem witness_OnlyTableCommandBytesAreSent :
    ∃ t, exec (.flush lastPixel) (readyState []) = .next t ∧
      (Level.low, [0x2C#8]) ∈ wire (newEntries (readyState []) t) := exists_next (by decide)

theorem witness_UnspecifiedRegistersAreNeverRead :
    isOperation .hwReset = true ∧
    (∃ t, exec (.init .deg0 .rgb) (lifeState .resetDone []) = .next t ∧ t.life = .ready) ∧
    exec .hwReset { State.reset with env := [.hang] } = .fault .environmentHangs ∧
    exec .hwReset { State.reset with busy := true } = .refused .busy :=
  ⟨rfl, exists_next (by decide), rfl, rfl⟩

/-- The invariants hold of a state in READY that was run from block reset, and it has a next one. -/
theorem witness_StepKeepsRegistersLegal :
    Legal poweredOn ∧ poweredOn.life = .ready ∧
    ∃ t, step { poweredOn with requests := [.hostOp [0x01#8]] } = .next t ∧ t.life = .resetDone :=
  ⟨⟨by decide, by decide, by decide, by decide, by decide, by decide⟩, by decide, exists_next (by decide)⟩

theorem witness_StepKeepsFraming : framed poweredOn.trace = true ∧ (wire poweredOn.trace).length = 34 := by decide

theorem witness_StepKeepsTransfersSettled : Settled poweredOn :=
  ⟨by decide, by decide, .inr (by decide)⟩

theorem witness_StepKeepsSleepBounds : Timed poweredOn ∧ sleptMs poweredOn.trace = 371 :=
  ⟨⟨by decide, by decide, by decide⟩, by decide⟩

/-- A handle whose window the wire just programmed, with WIN_VALID = 1. -/
def mirrored : State :=
  { readyState [] with
    win := lastPixel
    trace := okEntries (setWindowCalls defaultCmd lastPixel)
    requests := [.hostOp [0x01#8]] }

theorem mirrored_holds : MirrorHolds mirrored := by
  intro _ c r k
  have h : mirrored.trace = okEntries (setWindowCalls defaultCmd lastPixel) := rfl
  rw [h]
  have axis := Sink.checkAxis_window
  simp only [Sink.sameWindow] at axis
  simp [okEntries, setWindowCalls, frameCalls, rangeData, be16, hi8, lo8, lastPixel, Sink.feedAll, Sink.feed,
    Sink.takeCommand, Sink.takeData, defaultCmd, mirrored, readyState, lifeState, State.reset, State.blockReset,
    defaultParams, ofBe16, apply_ite Sink.sxs, apply_ite Sink.sxe, apply_ite Sink.sys, apply_ite Sink.sye,
    axis, Sink.lose]

theorem witness_StepKeepsTheWindowMirror :
    mirrored.busy = false ∧ mirrored.winValid = true ∧ MirrorHolds mirrored ∧
    ∃ t, step mirrored = .next t ∧ t.life = .resetDone :=
  ⟨rfl, rfl, mirrored_holds, exists_next (by decide)⟩

theorem witness_ReachableStatesAreLegal :
    Reachable { State.reset with requests := [.hostOp [0x01#8]], env := [.ok 0, .fail] } := .start _ _

theorem witness_WrongFrameBufferSizeIsRefused :
    [Life.unreset, .resetDone, .ready, .failed].all (fun l => [0, 16383, 16385].all fun n =>
      let s := { lifeState l [] with fbPixels := n }
      idle s && windowOk s lastPixel && decide (s.fbPixels ≠ frameBufferPixels s.cfg s.rot)) = true := by decide

end Sys2Proof.Tests
end

/-! SUPPORT. SINK's window over the calls of the operations (spec/20_memory.md R81): a range frame programs its axis, and
nothing else the block sends moves the window. -/

namespace Sys2Proof.Machine

open Sys2Proof

/-- An instruction that answers a next state had a handle with well-formed parameters (R284, R293). -/
theorem exec_hasMeaning {i : Instr} {s t : State} (h : exec i s = .next t) : noMeaning s = none := by
  cases hn : noMeaning s with
  | none => rfl
  | some r => rw [exec_noMeaning i hn] at h; cases h

theorem cmdWf_of_hasMeaning {s : State} (h : noMeaning s = none) : cmdWf s.par.cmd = true := by
  have hp := (noMeaning_eq_none.mp h).2
  simp only [parametersWf, Bool.and_eq_true] at hp
  exact hp.1.1.2

theorem cmdOf_ne {c : CmdBytes} (h : cmdWf c = true) {k l : FrameKind} (hkl : k ≠ l) : cmdOf c k ≠ cmdOf c l :=
  fun he => hkl (cmdOf_injective h he)

/-! ### SINK's window -/

/-- The window SINK holds, as one value. -/
def Sink.window (k : Sink) : Window := { xs := k.sxs, xe := k.sxe, ys := k.sys, ye := k.sye }

theorem Sink.sameWindow.window_eq {k l : Sink} (h : k.sameWindow l) : k.window = l.window := by
  obtain ⟨h1, h2, h3, h4, -⟩ := h
  simp [Sink.window, h1, h2, h3, h4]

theorem Sink.sameWindow.writing_eq {k l : Sink} (h : k.sameWindow l) : k.writing = l.writing := h.2.2.2.2

/-- The mirror (R25), with SINK's window as one value. -/
theorem mirrorHolds_iff {s : State} :
    MirrorHolds s ↔ (s.winValid = true → ∀ (x y : Nat) (k : Sink), (k.feedAll s.par.cmd x y s.trace).window = s.win) := by
  simp only [MirrorHolds, Sink.window]
  constructor
  · intro h hv x y k
    obtain ⟨h1, h2, h3, h4⟩ := h hv x y k
    rw [h1, h2, h3, h4]
  · intro h hv x y k
    rw [← h hv x y k]
    exact ⟨rfl, rfl, rfl, rfl⟩

/-- A command phase leaves the window alone (R82). -/
theorem Sink.takeCommand_window (c : CmdBytes) (k : Sink) (bs : List Byte) : (k.takeCommand c bs).window = k.window := by
  unfold Sink.takeCommand
  dsimp only
  have hlose : (if k.writing && !k.complete then k.lose else k).window = k.window := by split <;> rfl
  rw [← hlose]
  generalize (if k.writing && !k.complete then k.lose else k) = l
  split
  · split <;> rfl
  · rfl

/-- A command byte is what SINK received last, and MEM_WRITE's starts a memory write (R82). -/
theorem Sink.takeCommand_byte (c : CmdBytes) (k : Sink) (b : Byte) :
    (k.takeCommand c [b]).last = some b ∧ (k.takeCommand c [b]).writing = decide (b = c.memWrite) := by
  unfold Sink.takeCommand
  by_cases hb : b = c.memWrite <;> simp [hb]

/-- The bytes of a memory write leave the window and the mode alone (R83). -/
theorem Sink.takeData_writing {k : Sink} (hw : k.writing = true) (c : CmdBytes) (x y : Nat) (bs : List Byte) :
    (k.takeData c x y bs).window = k.window ∧ (k.takeData c x y bs).writing = true := by
  unfold Sink.takeData
  rw [if_pos hw]
  induction bs generalizing k with
  | nil => exact ⟨rfl, hw⟩
  | cons b bs ih =>
    have hb := k.takeByte_window b
    obtain ⟨h1, h2⟩ := ih (k := k.takeByte b) (hb.writing_eq.trans hw)
    exact ⟨h1.trans hb.window_eq, h2⟩

/-- A column range's data programs the columns (R81). -/
theorem Sink.takeData_cols {c : CmdBytes} {k : Sink} (hw : k.writing = false) (hl : k.last = some c.colRange)
    (x y : Nat) (a b : Half) :
    (k.takeData c x y (rangeData a b)).window = { k.window with xs := a, xe := b } := by
  simp only [Sink.takeData, hw, hl, rangeData, be16, List.cons_append, List.nil_append, Bool.false_eq_true, if_false,
    if_true, ofBe16_be16]
  rw [(Sink.checkAxis_window _ _ _ _).window_eq]
  rfl

/-- A row range's data programs the rows (R81). -/
theorem Sink.takeData_rows {c : CmdBytes} {k : Sink} (hw : k.writing = false) (hl : k.last = some c.rowRange)
    (hne : c.rowRange ≠ c.colRange) (x y : Nat) (a b : Half) :
    (k.takeData c x y (rangeData a b)).window = { k.window with ys := a, ye := b } := by
  simp only [Sink.takeData, hw, hl, rangeData, be16, List.cons_append, List.nil_append, Bool.false_eq_true, if_false,
    if_true, if_neg hne, ofBe16_be16]
  rw [(Sink.checkAxis_window _ _ _ _).window_eq]
  rfl

/-! ### The window after calls that answered ok -/

/-- SINK's window after some calls that all answered `ok`. -/
def Sink.windowAfter (c : CmdBytes) (x y : Nat) (k : Sink) (es : List Event) : Window :=
  (k.feedAll c x y (okEntries es)).window

theorem Sink.feedAll_append (c : CmdBytes) (x y : Nat) (k : Sink) (es fs : List Entry) :
    k.feedAll c x y (es ++ fs) = (k.feedAll c x y es).feedAll c x y fs := List.foldl_append

theorem Sink.windowAfter_append (c : CmdBytes) (x y : Nat) (k : Sink) (es fs : List Event) :
    k.windowAfter c x y (es ++ fs) = (k.feedAll c x y (okEntries es)).windowAfter c x y fs := by
  rw [Sink.windowAfter, okEntries_append, Sink.feedAll_append]
  rfl

theorem Sink.feedAll_cmd (c : CmdBytes) (x y : Nat) (k : Sink) (b : Byte) :
    k.feedAll c x y (okEntries (frameCalls ⟨b, []⟩)) = k.takeCommand c [b] := rfl

/-- Calls without a data phase leave SINK's window alone (R81, R84). -/
theorem Sink.windowAfter_of_noData {es : List Event} (h : ∀ e ∈ es, ∀ bs, e ≠ .busXfer .high bs) (c : CmdBytes)
    (x y : Nat) (k : Sink) : k.windowAfter c x y es = k.window := by
  induction es generalizing k with
  | nil => rfl
  | cons e es ih =>
    refine (ih (fun f hf => h f (List.mem_cons_of_mem _ hf)) (k.feed c x y { event := e, ok := true })).trans ?_
    have hdata := h e (List.mem_cons_self ..)
    match e with
    | .gpioRst .assert | .gpioRst .deassert | .gpioDc _ | .sleep _ => rfl
    | .busXfer .low bs => exact k.takeCommand_window c bs
    | .busXfer .high bs => exact absurd rfl (hdata bs)

/-- The chunks of a FLUSH leave SINK's window alone. -/
theorem Sink.windowAfter_chunks (c : CmdBytes) (x y : Nat) {k : Sink} (hw : k.writing = true) (bss : List (List Byte)) :
    k.windowAfter c x y (bss.map (.busXfer .high)) = k.window := by
  induction bss generalizing k with
  | nil => rfl
  | cons bs bss ih =>
    obtain ⟨h1, h2⟩ := Sink.takeData_writing hw c x y bs
    exact (ih h2).trans h1

section

variable {c : CmdBytes} (hc : cmdWf c = true)

include hc

theorem Sink.windowAfter_cols (x y : Nat) (k : Sink) (a b : Half) :
    k.windowAfter c x y (frameCalls ⟨c.colRange, rangeData a b⟩) = { k.window with xs := a, xe := b } := by
  have hne : c.colRange ≠ c.memWrite := cmdOf_ne (k := .colRange) (l := .memWrite) hc (by decide)
  obtain ⟨h2, h3⟩ := k.takeCommand_byte c c.colRange
  rw [← k.takeCommand_window c [c.colRange]]
  exact Sink.takeData_cols (by simpa [hne] using h3) h2 x y a b

theorem Sink.windowAfter_rows (x y : Nat) (k : Sink) (a b : Half) :
    k.windowAfter c x y (frameCalls ⟨c.rowRange, rangeData a b⟩) = { k.window with ys := a, ye := b } := by
  have hne : c.rowRange ≠ c.memWrite := cmdOf_ne (k := .rowRange) (l := .memWrite) hc (by decide)
  have hne' : c.rowRange ≠ c.colRange := cmdOf_ne (k := .rowRange) (l := .colRange) hc (by decide)
  obtain ⟨h2, h3⟩ := k.takeCommand_byte c c.rowRange
  rw [← k.takeCommand_window c [c.rowRange]]
  exact Sink.takeData_rows (by simpa [hne] using h3) h2 hne' x y a b

/-- A column range and a row range leave SINK's window at what they program, whatever it held before. -/
theorem Sink.windowAfter_ranges (x y : Nat) (k : Sink) (w : Window) :
    k.windowAfter c x y
      (frameCalls ⟨c.colRange, rangeData w.xs w.xe⟩ ++ frameCalls ⟨c.rowRange, rangeData w.ys w.ye⟩) = w := by
  rw [Sink.windowAfter_append, Sink.windowAfter_rows hc]
  have h := Sink.windowAfter_cols hc x y k w.xs w.xe
  rw [Sink.windowAfter] at h
  rw [h]

/-- After SET_WINDOW's calls SINK has its window and is in a memory write. -/
theorem Sink.feedAll_setWindow (x y : Nat) (k : Sink) (w : Window) :
    (k.feedAll c x y (okEntries (setWindowCalls c w))).window = w ∧
      (k.feedAll c x y (okEntries (setWindowCalls c w))).writing = true := by
  rw [setWindowCalls, okEntries_append, Sink.feedAll_append, Sink.feedAll_cmd]
  exact ⟨(Sink.takeCommand_window ..).trans (Sink.windowAfter_ranges hc x y k w),
    (Sink.takeCommand_byte ..).2.trans (decide_eq_true rfl)⟩

/-- After FLUSH's calls SINK has its window (R215). -/
theorem Sink.windowAfter_flush {s : State} (hs : s.par.cmd = c) (x y : Nat) (k : Sink) (w : Window) :
    k.windowAfter c x y (flushCalls s w) = w := by
  obtain ⟨h1, h2⟩ := Sink.feedAll_setWindow hc x y k w
  rw [flushCalls, hs, Sink.windowAfter_append]
  exact (Sink.windowAfter_chunks c x y h2 _).trans h1

/-- INITIALIZE's calls leave SINK's window at the pre-seed (R173, R174): slots 14 and 15 program it, slots 16 and 17 have
no data phase. -/
theorem Sink.windowAfter_init {p : Params} (hp : p.cmd = c) (x y : Nat) (k : Sink) (rot : Rotation)
    (order : ColorOrder) : k.windowAfter c x y (initCalls p rot order) = p.preseed := by
  have hsplit : initCalls p rot order = ((slotCases p rot order).take 14).flatMap SlotCase.calls ++
      ((frameCalls ⟨p.cmd.colRange, rangeData p.preseed.xs p.preseed.xe⟩ ++
        frameCalls ⟨p.cmd.rowRange, rangeData p.preseed.ys p.preseed.ye⟩) ++
        ((slotCases p rot order).drop 16).flatMap SlotCase.calls) := by
    rw [initCalls, ← List.take_append_drop 14 (slotCases p rot order), List.flatMap_append]
    rfl
  have htail : ∀ e ∈ ((slotCases p rot order).drop 16).flatMap SlotCase.calls, ∀ bs, e ≠ .busXfer .high bs := by
    rintro e he bs rfl
    simp [slotCases, SlotCase.calls, frameCalls] at he
  rw [hsplit, Sink.windowAfter_append, Sink.windowAfter_append, Sink.windowAfter_of_noData htail, hp]
  exact Sink.windowAfter_ranges hc x y _ p.preseed

end

end Sys2Proof.Machine

/-! SUPPORT. WIN mirrors the window the wire last programmed (spec/10_state.md R25, spec/43_window.md R204). -/

namespace Sys2Proof.Machine

open Sys2Proof

/-- INITIALIZE leaves WIN at the pre-seed (R173, R174). -/
theorem winFrom_initActions (p : Params) (rot : Rotation) (order : ColorOrder) (w : Window) :
    winFrom w (initActions p rot order) = p.preseed := by
  have h := winFrom_slots p rot order 18 le_rfl w
  rwa [List.take_of_length_le (slotCases_length p rot order).le, slotCases_slot] at h

theorem hwResetActions_calls (d : Delays) : ∀ a ∈ hwResetActions d, isCall a = true := by
  simp [hwResetActions, isCall]

/-- A frame needs the operation in progress (R183). -/
theorem isOperation_of_idle {i : Instr} {s t : State} (hb : s.busy = false) (h : exec i s = .next t) :
    isOperation i = true := by
  by_contra hi
  obtain ⟨hp, -⟩ := frame_next (by simpa using hi) h
  rw [(inProgress_iff.mp hp).2] at hb
  cases hb

/-- An operation whose calls all answered `ok` and that leaves WIN_VALID = 1 leaves SINK's window, whatever it was, where it
leaves WIN. -/
theorem windowAfter_operation {i : Instr} {s : State} (hc : cmdWf s.par.cmd = true)
    (hv : winValidFrom (startOf i s).winValid (programOf i s) = true) (hi : isOperation i = true) (x y : Nat) (k : Sink) :
    k.windowAfter s.par.cmd x y (callsOf i s) = winFrom (startOf i s).win (programOf i s) := by
  cases i
  case hwReset => rw [programOf, winValidFrom_calls (hwResetActions_calls _)] at hv; cases hv
  case init rot order =>
    rw [callsOf_init, Sink.windowAfter_init hc rfl]
    exact (winFrom_initActions _ _ _ _).symm
  case flush w =>
    rw [callsOf_flush, Sink.windowAfter_flush hc rfl]
    exact (winFrom_flush _ _ _).symm
  case setWindow w =>
    rw [callsOf_setWindow]
    exact (Sink.feedAll_setWindow hc x y k w).1.trans (winFrom_setWindow _ _ _).symm
  case send cmd data => rw [programOf, winValidFrom_calls (sendActions_calls _ _)] at hv; cases hv
  all_goals cases hi

theorem returnOk_winValid (op : HostOp) (s : State) : (returnOk op s).winValid = s.winValid := by cases op <;> rfl
theorem returnOk_win (op : HostOp) (s : State) : (returnOk op s).win = s.win := by cases op <;> rfl

/-- From an idle handle every instruction keeps the mirror, and leaves the handle idle. -/
theorem exec_keeps_mirror {i : Instr} {s t : State} (hb : s.busy = false) (hm : MirrorHolds s)
    (h : exec i s = .next t) : MirrorHolds t ∧ t.busy = false := by
  have hi := isOperation_of_idle hb h
  refine ⟨?_, (idle_iff.mp (idle_after hi h)).2⟩
  rcases exec_ran h with ⟨-, -, ht, -⟩ | ⟨hran, -, hop, -⟩ | ⟨n, -, -, -, hop, -⟩
  · rw [ht]; exact hm
  · obtain ⟨-, -, ht⟩ := hop hi
    rw [mirrorHolds_iff]
    intro hv x y k
    have hc := cmdWf_of_hasMeaning (exec_hasMeaning h)
    have hcalls : instrCalls i s = callsOf i s := by simp [instrCalls, hi]
    rw [ht, returnOk_winValid] at hv
    rw [hran.par, hran.trace, hcalls, Option.toList_none, List.map_nil, List.append_nil, Sink.feedAll_append, ht,
      returnOk_win]
    exact windowAfter_operation hc hv hi x y _
  · obtain ⟨-, -, ht⟩ := hop hi
    intro hv
    rw [ht] at hv
    cases hv

/-- Settles O57: WIN is written by operations that program the same window on the wire; one that fails clears WIN_VALID. -/
theorem stepKeepsTheWindowMirror : Obligations.StepKeepsTheWindowMirror := by
  intro s t hb hm h
  rcases step_cases h with ⟨-, rfl⟩ | ⟨i, rest, he⟩ | ⟨a, v, rest, -, -, rfl⟩ | ⟨n, rest, -, rfl⟩ |
    ⟨cfg, par, rest, -, -, rfl⟩ | ⟨rest, -, -, rfl⟩
  · exact ⟨hm, hb⟩
  · exact exec_keeps_mirror (s := { s with requests := rest }) hb hm he
  · exact ⟨hm, hb⟩
  · exact ⟨hm, hb⟩
  · exact ⟨fun hv => absurd hv Bool.false_ne_true, rfl⟩
  · exact ⟨hm, hb⟩

end Sys2Proof.Machine

/-! SUPPORT. What an instruction that answers a next state did to LIFE and RST (`exec_effect`) and to STEP, PIX and TXBUF
(`operation_counters`), each said once (spec/10_state.md R26 to R31, R43). -/

namespace Sys2Proof.Machine

open Sys2Proof

/-! ### Which calls drive the reset line -/

theorem slotCalls_noReset {x : SlotCase} {e : Event} (h : e ∈ x.calls) (l : ResetLevel) : e ≠ .gpioRst l := by
  rcases List.mem_append.mp h with h | h
  · rcases mem_frameCalls h with ⟨m, rfl⟩ | ⟨m, bs, rfl⟩ <;> simp
  · split at h
    · cases h
    · rw [List.mem_singleton.mp h]; simp

/-- HW_RESET alone drives the reset line (R140). -/
theorem instrCalls_noReset {i : Instr} (hne : i ≠ .hwReset) {s : State} {e : Event} (h : e ∈ instrCalls i s)
    (l : ResetLevel) : e ≠ .gpioRst l := by
  by_cases hi : isOperation i = true
  · rw [instrCalls, if_pos hi] at h
    cases i
    case hwReset => exact absurd rfl hne
    case init rot order =>
      rw [callsOf_init] at h
      obtain ⟨x, -, hx⟩ := List.mem_flatMap.mp h
      exact slotCalls_noReset hx l
    case flush w =>
      rw [callsOf_flush] at h
      rcases mem_flushCalls h with ⟨m, rfl⟩ | ⟨m, bs, rfl⟩ <;> simp
    case setWindow w =>
      rw [callsOf_setWindow] at h
      rcases mem_setWindowCalls h with ⟨m, rfl⟩ | ⟨m, bs, rfl⟩ <;> simp
    case send cmd data =>
      rw [callsOf_send] at h
      rcases mem_frameCalls h with ⟨m, rfl⟩ | ⟨m, bs, rfl⟩ <;> simp
    all_goals cases hi
  · rw [instrCalls, if_neg hi, frameCallsOf_eq] at h
    exact slotCalls_noReset (x := ⟨i, 0, (frameOf i s).1, (frameOf i s).2⟩) h l

/-- The call that fails is one of an instruction's calls. -/
theorem failingCall_mem {calls : List Event} {n : Nat} (hn : n < calls.length) : failingCall calls n ∈ calls := by
  rw [failingCall, List.getD_eq_getElem _ _ hn]
  exact List.getElem_mem hn

/-! ### LIFE and RST -/

/-- Where an operation other than HW_RESET is admitted (Table 60-C). -/
theorem life_of_admitted {op : HostOp} {l : Life} (hop : op ≠ .hwReset) (ha : admitted op l = true) :
    l = .resetDone ∨ l = .ready := by
  cases op <;> cases l <;> simp_all [admitted]

theorem opOf_ne_hwReset {i : Instr} (hi : isOperation i = true) (hne : i ≠ .hwReset) : opOf i ≠ .hwReset := by
  cases i <;> simp_all [isOperation, opOf]

/-- Where a frame stands in its place: a SET_WINDOW's in READY, a slot in RESET_DONE (Table 60-C). -/
theorem life_of_place {i : Instr} {s : State} (h : placeOf i s = true) :
    s.life = if inWindow i s then .ready else .resetDone := by
  unfold placeOf at h
  split at h
  · next hw => simpa [hw] using h
  · next hw =>
    simp only [slotInPlace, Bool.and_eq_true, decide_eq_true_eq] at h
    rw [if_neg hw, h.1.1]

theorem returnOk_rst (op : HostOp) (s : State) : (returnOk op s).rst = s.rst := by cases op <;> rfl
theorem takeAbort_rst (op : HostOp) (e : Result) (s : State) : (takeAbort op e s).rst = s.rst := by cases op <;> rfl
theorem startOf_rst (i : Instr) (s : State) : (startOf i s).rst = s.rst := by cases i <;> rfl

/-- What an instruction did to LIFE and RST, and over which calls (R30, R31, Tables 60-B and 60-C). -/
inductive LifeEffect (s t : State) : Prop
  /-- A rejected operation writes ERR only (R250). -/
  | rejected (ht : t = s.setErr (.sequenceError .order))
  /-- HW_RESET returned Ok (R140). -/
  | resetDone (ran : Ran s t (hwResetCalls s.par.delays) none) (rst : t.rst = .deassert) (life : t.life = .resetDone)
  /-- HW_RESET aborted (R142). -/
  | resetFailed (calls : List Event) (failed : Option Event) (ran : Ran s t calls failed)
      (sub : ∀ e ∈ calls ++ failed.toList, e ∈ hwResetCalls s.par.delays) (life : t.life = .unreset)
  /-- An instruction kept LIFE, whether all its calls answered `ok` or not. -/
  | kept (calls : List Event) (failed : Option Event) (ran : Ran s t calls failed)
      (quiet : ∀ e ∈ calls ++ failed.toList, ∀ l, e ≠ .gpioRst l) (before : s.life = .resetDone ∨ s.life = .ready)
      (rst : t.rst = s.rst) (life : t.life = s.life)
  /-- INITIALIZE returned Ok (R155). -/
  | initialized (rot : Rotation) (order : ColorOrder) (ran : Ran s t (initCalls s.par rot order) none)
      (quiet : ∀ e ∈ initCalls s.par rot order, ∀ l, e ≠ .gpioRst l) (before : s.life = .resetDone)
      (rst : t.rst = s.rst) (life : t.life = .ready)
  /-- INITIALIZE, or a slot of it, aborted (R182, R183). -/
  | initFailed (calls : List Event) (failed : Option Event) (ran : Ran s t calls failed)
      (quiet : ∀ e ∈ calls ++ failed.toList, ∀ l, e ≠ .gpioRst l) (before : s.life = .resetDone)
      (rst : t.rst = s.rst) (life : t.life = .failed)

/-- An instruction all of whose calls answered `ok`. -/
theorem effect_of_finished {i : Instr} {s t : State} (hran : Ran s t (instrCalls i s) none)
    (hop : isOperation i = true → admitted (opOf i) s.life = true ∧ premiseOf i s = none ∧
      t = returnOk (opOf i) (finished (programOf i s) (startOf i s)))
    (hframe : isOperation i = false → placeOf i s = true ∧ t = finished (frameProgram i s) s) : LifeEffect s t := by
  have hquiet : i ≠ .hwReset → ∀ e ∈ instrCalls i s ++ (none : Option Event).toList, ∀ l, e ≠ .gpioRst l :=
    fun hne e he => instrCalls_noReset hne (by simpa using he)
  by_cases hi : isOperation i = true
  · obtain ⟨ha, -, ht⟩ := hop hi
    have hrst : t.rst = resetLineAfter s.rst (callsOf i s) := by
      rw [ht, returnOk_rst]
      simp only [finished, startOf_rst, startOf_dc]
      rfl
    have hcalls : instrCalls i s = callsOf i s := by rw [instrCalls, if_pos hi]
    by_cases hr : i = .hwReset
    · subst hr
      exact .resetDone hran hrst (by rw [ht]; rfl)
    · have hsame : t.rst = s.rst := by
        rw [hrst, resetLineAfter_of_none]
        exact fun e he => instrCalls_noReset hr (hcalls ▸ he)
      have hlife : t.life = lifeOnOk (opOf i) s.life := by
        rw [ht]
        show lifeOnOk (opOf i) (startOf i s).life = _
        rw [startOf_life, if_neg hr]
      have hbefore := life_of_admitted (opOf_ne_hwReset hi hr) ha
      cases i
      case hwReset => exact absurd rfl hr
      case init rot order =>
        rw [hcalls, callsOf_init] at hran hquiet
        refine .initialized rot order hran (fun e he => hquiet hr e (by simpa using he)) ?_ hsame hlife
        exact hbefore.resolve_right fun hl => by simp [hl, opOf, admitted] at ha
      case flush | setWindow | send => exact .kept _ _ hran (hquiet hr) hbefore hsame hlife
      all_goals cases hi
  · obtain ⟨hp, ht⟩ := hframe (by simpa using hi)
    have hr : i ≠ .hwReset := fun h => hi (by rw [h]; rfl)
    refine .kept _ _ hran (hquiet hr) ?_ ?_ (by rw [ht]; rfl)
    · rw [life_of_place hp]; split <;> simp
    · rw [ht]
      show resetLineAfter s.rst (frameCallsOf i s) = s.rst
      apply resetLineAfter_of_none
      have hcalls : instrCalls i s = frameCallsOf i s := by rw [instrCalls, if_neg hi]
      exact fun e he => instrCalls_noReset hr (hcalls ▸ he)

/-- An instruction whose n-th call (from 0) failed. -/
theorem effect_of_stopped {i : Instr} {s t : State} {n : Nat} {e : Result} (hn : n < (instrCalls i s).length)
    (hran : Ran s t ((instrCalls i s).take n) (some (failingCall (instrCalls i s) n)))
    (hop : isOperation i = true → admitted (opOf i) s.life = true ∧
      t = takeAbort (opOf i) e (stopped (programOf i s) n (startOf i s)))
    (hframe : isOperation i = false → placeOf i s = true ∧
      t = takeAbort (frameOpOf i s) e (stopped (frameProgram i s) n s)) : LifeEffect s t := by
  have hsub : ∀ x ∈ (instrCalls i s).take n ++ (some (failingCall (instrCalls i s) n)).toList, x ∈ instrCalls i s := by
    intro x hx
    rcases List.mem_append.mp hx with hx | hx
    · exact List.mem_of_mem_take hx
    · rw [Option.toList_some, List.mem_singleton] at hx
      rw [hx]
      exact failingCall_mem hn
  have hquiet := fun (hne : i ≠ .hwReset) x hx => instrCalls_noReset hne (hsub x hx)
  have hrstOf : i ≠ .hwReset → resetLineAfter s.rst ((instrCalls i s).take n) = s.rst := fun hne =>
    resetLineAfter_of_none (fun x hx => instrCalls_noReset hne (List.mem_of_mem_take hx)) _
  by_cases hi : isOperation i = true
  · obtain ⟨ha, ht⟩ := hop hi
    by_cases hr : i = .hwReset
    · subst hr
      exact .resetFailed _ _ hran hsub (by rw [ht]; rfl)
    · have hsame : t.rst = s.rst := by
        rw [ht, takeAbort_rst]
        simp only [stopped, startOf_rst, startOf_dc]
        have := hrstOf hr
        rwa [instrCalls, if_pos hi] at this
      have hlife : t.life = lifeOnAbort (opOf i) s.life := by
        rw [ht, takeAbort_life]
        show lifeOnAbort (opOf i) (startOf i s).life = _
        rw [startOf_life, if_neg hr]
      have hbefore := life_of_admitted (opOf_ne_hwReset hi hr) ha
      cases i
      case hwReset => exact absurd rfl hr
      case init rot order =>
        refine .initFailed _ _ hran (hquiet hr) ?_ hsame hlife
        exact hbefore.resolve_right fun hl => by simp [hl, opOf, admitted] at ha
      case flush | setWindow | send => exact .kept _ _ hran (hquiet hr) hbefore hsame hlife
      all_goals cases hi
  · obtain ⟨hp, ht⟩ := hframe (by simpa using hi)
    have hr : i ≠ .hwReset := fun h => hi (by rw [h]; rfl)
    have hplace := life_of_place hp
    have hsame : t.rst = s.rst := by
      rw [ht, takeAbort_rst]
      have := hrstOf hr
      rwa [instrCalls, if_neg hi] at this
    have hlife : t.life = lifeOnAbort (frameOpOf i s) s.life := by rw [ht]; rfl
    rw [frameOpOf] at hlife
    by_cases hw : inWindow i s = true
    · rw [if_pos hw] at hlife hplace
      exact .kept _ _ hran (hquiet hr) (.inr hplace) hsame hlife
    · rw [if_neg hw] at hlife hplace
      exact .initFailed _ _ hran (hquiet hr) hplace hsame hlife

/-- What an instruction that answers a next state did to LIFE and RST. -/
theorem exec_effect {i : Instr} {s t : State} (h : exec i s = .next t) : LifeEffect s t := by
  rcases exec_ran h with ⟨-, -, ht, -⟩ | ⟨hran, -, hop, hframe⟩ | ⟨n, hn, -, hran, hop, hframe⟩
  · exact .rejected ht
  · exact effect_of_finished hran hop hframe
  · by_cases hi : isOperation i = true
    · exact effect_of_stopped hn hran (fun _ => ⟨(hop hi).1, (hop hi).2.2⟩) (fun hf => by simp [hi] at hf)
    · exact effect_of_stopped hn hran (fun ho => absurd ho hi) hframe

end Sys2Proof.Machine

/-! SUPPORT. How the instructions advance STEP, PIX and TXBUF (spec/10_state.md R26 to R28, R43). -/

namespace Sys2Proof.Machine

open Sys2Proof

/-! ### Which programs advance STEP and TXBUF -/

theorem sendActions_noPixel (cmd : Byte) (data : List Byte) : ∀ a ∈ sendActions cmd data, ∀ x, a ≠ .pushPixel x := by
  rintro a ha x rfl
  cases sendActions_calls cmd data _ ha

theorem slotActions_noPixel (p : Params) (sl : Slot) : ∀ a ∈ slotActions p sl, ∀ x, a ≠ .pushPixel x := by
  rintro a ha x rfl
  simp only [slotActions, List.mem_append, List.mem_singleton, reduceCtorEq, or_false] at ha
  rcases ha with (ha | ha) | ha
  · exact sendActions_noPixel _ _ _ ha x rfl
  · cases hk : sl.kind <;> simp [hk, mirrorActions] at ha
  · cases delayActions_calls _ _ ha

/-- A SET_WINDOW frame makes its calls and writes its axis of WIN. -/
theorem windowProgram_cases {c : CmdBytes} {i : Instr} {a : Action} (h : a ∈ windowProgram c i) :
    isCall a = true ∨ (∃ xs xe, a = .setCols xs xe) ∨ (∃ ys ye, a = .setRows ys ye) := by
  cases i
  case colRange xs xe =>
    rcases List.mem_append.mp h with h | h
    · exact .inl (sendActions_calls _ _ a h)
    · exact .inr (.inl ⟨xs, xe, List.mem_singleton.mp h⟩)
  case rowRange ys ye =>
    rcases List.mem_append.mp h with h | h
    · exact .inl (sendActions_calls _ _ a h)
    · exact .inr (.inr ⟨ys, ye, List.mem_singleton.mp h⟩)
  all_goals exact .inl (sendActions_calls _ _ a h)

theorem windowProgram_noPixel (c : CmdBytes) (i : Instr) : ∀ a ∈ windowProgram c i, ∀ x, a ≠ .pushPixel x := by
  rintro a ha x rfl
  rcases windowProgram_cases ha with h | ⟨_, _, h⟩ | ⟨_, _, h⟩ <;> cases h

theorem windowProgram_noStep (c : CmdBytes) (i : Instr) : ∀ a ∈ windowProgram c i, a ≠ .nextStep := by
  rintro a ha rfl
  rcases windowProgram_cases ha with h | ⟨_, _, h⟩ | ⟨_, _, h⟩ <;> cases h

/-- No frame writes TXBUF or PIX (R27, R28). -/
theorem frameProgram_noPixel (i : Instr) (s : State) : ∀ a ∈ frameProgram i s, ∀ x, a ≠ .pushPixel x := by
  unfold frameProgram
  split
  · exact windowProgram_noPixel _ _
  · exact slotActions_noPixel _ _

/-- FLUSH alone writes TXBUF and PIX (R27, R28). -/
theorem programOf_noPixel {i : Instr} (hne : ∀ w, i ≠ .flush w) (s : State) :
    ∀ a ∈ programOf i s, ∀ x, a ≠ .pushPixel x := by
  cases i
  case hwReset => simp [programOf, hwResetActions]
  case init rot order =>
    intro a ha
    obtain ⟨sl, -, hsl⟩ := List.mem_flatMap.mp ha
    exact slotActions_noPixel _ _ a hsl
  case flush w => exact absurd rfl (hne w)
  case setWindow w => exact setWindowActions_still _ _
  case send cmd data => exact sendActions_noPixel _ _
  all_goals simp [programOf]

theorem setWindowActions_noStep (c : CmdBytes) (w : Window) : ∀ a ∈ setWindowActions c w, a ≠ .nextStep := by
  simp [setWindowActions_eq]

/-- INITIALIZE alone writes STEP (R26). -/
theorem programOf_noStep {i : Instr} (hne : ∀ rot order, i ≠ .init rot order) (s : State) :
    ∀ a ∈ programOf i s, a ≠ .nextStep := by
  cases i
  case hwReset => simp [programOf, hwResetActions]
  case init rot order => exact absurd rfl (hne rot order)
  case flush w =>
    simp only [programOf, flushActions, serializeActions, List.forall_mem_append, List.forall_mem_cons,
      List.forall_mem_map]
    exact ⟨⟨setWindowActions_noStep _ _, by simp⟩, by simp, by simp⟩
  case setWindow w => exact setWindowActions_noStep _ _
  case send cmd data => exact sendActions_still _ _
  all_goals simp [programOf]

/-! ### What an operation did to STEP, PIX and TXBUF -/

theorem returnOk_step (op : HostOp) (s : State) : (returnOk op s).step = s.step := by cases op <;> rfl
theorem returnOk_pix (op : HostOp) (s : State) : (returnOk op s).pix = s.pix := by cases op <;> rfl
theorem returnOk_txbuf (op : HostOp) (s : State) :
    (returnOk op s).txbuf = if op = .flush then [] else s.txbuf := by cases op <;> rfl
theorem takeAbort_step (op : HostOp) (e : Result) (s : State) : (takeAbort op e s).step = s.step := by cases op <;> rfl
theorem takeAbort_pix (op : HostOp) (e : Result) (s : State) : (takeAbort op e s).pix = s.pix := by cases op <;> rfl
theorem takeAbort_txbuf (op : HostOp) (e : Result) (s : State) :
    (takeAbort op e s).txbuf = if op = .flush then [] else s.txbuf := by cases op <;> rfl

theorem startOf_fb (i : Instr) (s : State) : (startOf i s).fb = s.fb := by cases i <;> rfl

/-- Some part of an operation's program ran: all of it when it returned Ok, that up to the failing call when not. -/
structure RanPart (i : Instr) (s t : State) (part : List Action) : Prop where
  which : (part = programOf i s) ∨ (∃ n < (callsOf i s).length, part = untilCall n (programOf i s)) ∧ t.err ≠ .ok
  step : t.step = stepFrom (startOf i s).step part
  pix : t.pix = (pixelsFrom s.fb ((startOf i s).txbuf, (startOf i s).pix) part).2
  txbuf : t.txbuf =
    if opOf i = .flush then [] else (pixelsFrom s.fb ((startOf i s).txbuf, (startOf i s).pix) part).1

/-- A host operation that answers a next state was rejected, or some part of its program ran. -/
theorem operation_counters {i : Instr} {s t : State} (hi : isOperation i = true) (h : exec i s = .next t) :
    (admitted (opOf i) s.life = false ∧ t = s.setErr (.sequenceError .order)) ∨ ∃ part, RanPart i s t part := by
  obtain ⟨-, -, hrej | ⟨-, -, ⟨-, ht⟩ | ⟨n, hn, -, ht⟩⟩⟩ := operation_next hi h
  · exact .inl hrej
  · refine .inr ⟨programOf i s, .inl rfl, ?_, ?_, ?_⟩
    · rw [ht, returnOk_step]; rfl
    · rw [ht, returnOk_pix, ← startOf_fb i s]; rfl
    · rw [ht, returnOk_txbuf, ← startOf_fb i s]; rfl
  · refine .inr ⟨untilCall n (programOf i s), .inr ⟨⟨n, hn, rfl⟩, ?_⟩, ?_, ?_, ?_⟩
    · rw [ht, takeAbort_err]; exact (errorFor_ne _ _).1
    · rw [ht, takeAbort_step]; rfl
    · rw [ht, takeAbort_pix, ← startOf_fb i s]; rfl
    · rw [ht, takeAbort_txbuf, ← startOf_fb i s]; rfl

theorem RanPart.mem {i : Instr} {s t : State} {part : List Action} (h : RanPart i s t part) {a : Action}
    (ha : a ∈ part) : a ∈ programOf i s := by
  rcases h.which with hp | ⟨⟨n, -, hp⟩, -⟩
  · rwa [← hp]
  · rw [hp] at ha; exact mem_untilCall ha

theorem startOf_step {i : Instr} (hne : ∀ rot order, i ≠ .init rot order) (s : State) :
    (startOf i s).step = s.step := by
  cases i
  case init rot order => exact absurd rfl (hne rot order)
  all_goals rfl

theorem startOf_pixels {i : Instr} (hne : ∀ w, i ≠ .flush w) (s : State) :
    (startOf i s).txbuf = s.txbuf ∧ (startOf i s).pix = s.pix := by
  cases i
  case flush w => exact absurd rfl (hne w)
  all_goals exact ⟨rfl, rfl⟩

theorem RanPart.step_eq {i : Instr} {s t : State} {part : List Action} (h : RanPart i s t part)
    (hne : ∀ rot order, i ≠ .init rot order) : t.step = s.step := by
  rw [h.step, startOf_step hne, stepFrom_of_still fun a ha => programOf_noStep hne s a (h.mem ha)]

theorem RanPart.pixels_eq {i : Instr} {s t : State} {part : List Action} (h : RanPart i s t part)
    (hne : ∀ w, i ≠ .flush w) :
    pixelsFrom s.fb ((startOf i s).txbuf, (startOf i s).pix) part = (s.txbuf, s.pix) := by
  rw [(startOf_pixels hne s).1, (startOf_pixels hne s).2,
    pixelsFrom_of_still fun a ha => programOf_noPixel hne s a (h.mem ha)]

/-! ### INITIALIZE and FLUSH -/

/-- INITIALIZE up to a call stands at a slot (R26). -/
theorem stepFrom_init_until {p : Params} {rot : Rotation} {order : ColorOrder} {n : Nat}
    (hn : n < (initCalls p rot order).length) :
    (stepFrom 0#5 (untilCall n (initActions p rot order))).toNat < 18 := by
  obtain ⟨x, m, hx, hm, hu⟩ :=
    untilCall_rows n (slotCases p rot order) (fun y hy => (slotCase_fields hy).2.1) hn
  have hlt := rowOfCall_lt (slotCases p rot order) n hn
  rw [slotCases_length] at hlt
  rw [initActions, ← slotCases_slot, hu, stepFrom_append, stepFrom_slots,
    stepFrom_calls (untilCall_slot_quiet (List.mem_of_getElem? hx) hm), List.length_take, slotCases_length]
  simp
  omega

/-- A whole INITIALIZE ends with STEP = 18, "all slots sent" (R26). -/
theorem stepFrom_initActions (p : Params) (rot : Rotation) (order : ColorOrder) :
    stepFrom 0#5 (initActions p rot order) = 18#5 := by
  rw [initActions, ← slotCases_slot, stepFrom_slots, slotCases_length]
  rfl

theorem RanPart.init_step {rot : Rotation} {order : ColorOrder} {s t : State} {part : List Action}
    (h : RanPart (.init rot order) s t part) : t.step.toNat ≤ 18 ∧ (t.err = .ok → t.step = 18#5) := by
  rcases h.which with hp | ⟨⟨n, hn, hp⟩, he⟩
  · have hstep : t.step = 18#5 := by rw [h.step, hp]; exact stepFrom_initActions _ _ _
    exact ⟨by rw [hstep]; decide, fun _ => hstep⟩
  · rw [callsOf_init] at hn
    rw [h.step, hp]
    exact ⟨(stepFrom_init_until hn).le, fun hok => absurd hok he⟩

/-- FLUSH up to a call has serialized no pixel or all of them (R217: SERIALIZE makes no call). -/
theorem pixelsFrom_flush_until (s : State) (w : Window) (n : Nat) :
    (pixelsFrom s.fb ([], 0) (untilCall n (flushActions s w))).2 ≤ windowWidth w * windowHeight w := by
  rw [untilCall_flush]
  split
  · next hn => simp [pixelsFrom_setWindow_until hn]
  · rw [pixelsFrom_append, pixelsFrom_setWindow, pixelsFrom_append, serializeActions, pixelsFrom_serialize,
      pixelsFrom_calls fun a ha => stream_calls _ a (mem_untilCall ha)]
    simp

theorem RanPart.flush_pix {w : Window} {s t : State} {part : List Action} (h : RanPart (.flush w) s t part) :
    t.pix ≤ windowWidth w * windowHeight w ∧ (t.err = .ok → t.pix = windowWidth w * windowHeight w) := by
  have hpix : t.pix = (pixelsFrom s.fb ([], 0) part).2 := h.pix
  rcases h.which with hp | ⟨⟨n, -, hp⟩, he⟩
  · have hall : t.pix = windowWidth w * windowHeight w := by
      rw [hpix, hp]
      exact congrArg Prod.snd (pixelsFrom_flush s w)
    exact ⟨hall.le, fun _ => hall⟩
  · rw [hpix, hp]
    exact ⟨pixelsFrom_flush_until s w n, fun hok => absurd hok he⟩

/-- Settles O48: every instruction makes calls up to one that fails and writes none of these registers (`exec_keeps`). -/
theorem noInstructionWritesConfigurationOrFrameBuffer :
    Obligations.NoInstructionWritesConfigurationOrFrameBuffer := by
  intro s t i h
  obtain ⟨calls, failed, hran⟩ := exec_keeps h
  exact ⟨hran.cfg, hran.par, hran.fb, hran.fbPixels, hran.attached, hran.requests,
    ⟨_, by rw [hran.trace, List.append_assoc]⟩, ⟨_, hran.now⟩, ⟨_, hran.env⟩⟩

/-- Settles O50, from the part of the operation's program that ran. -/
theorem programCountersAdvanceAsStated : Obligations.ProgramCountersAdvanceAsStated := by
  intro s t i h hi
  rcases operation_counters hi h with ⟨ha, rfl⟩ | ⟨part, hpart⟩
  · refine ⟨?_, ?_, fun _ _ => ⟨rfl, rfl⟩⟩
    · rintro rot order rfl
      exact ⟨rfl, fun hl => by simp [hl, opOf, admitted] at ha⟩
    · rintro w rfl
      exact ⟨rfl, fun hl => by simp [hl, opOf, admitted] at ha⟩
  · refine ⟨?_, ?_, fun hinit hflush => ⟨hpart.step_eq hinit, ?_⟩⟩
    · rintro rot order rfl
      exact ⟨by rw [hpart.pix, hpart.pixels_eq (by simp)], fun _ => hpart.init_step⟩
    · rintro w rfl
      exact ⟨hpart.step_eq (by simp), fun _ => hpart.flush_pix⟩
    · rw [hpart.pix, hpart.pixels_eq hflush]

end Sys2Proof.Machine

/-! SUPPORT. Every step keeps the invariants of the registers (spec/10_state.md R26, R28, R30, Table 10-B; R284). -/

namespace Sys2Proof.Machine

open Sys2Proof

/-! ### What a frame did to STEP, TXBUF and WIN_VALID -/

/-- A slot stopped at one of its calls has not advanced STEP: that is the last thing it does (R155). -/
theorem stepFrom_slot_until {dc : Level} {p : Params} {sl : Slot} {n : Nat}
    (hn : n < (callsFrom dc (slotActions p sl)).length) (k : BitVec 5) :
    stepFrom k (untilCall n (slotActions p sl)) = k := by
  have hbody : n < (callsFrom dc
      (sendActions (cmdOf p.cmd sl.kind) sl.data ++ mirrorActions p sl.kind ++ delayActions sl.delay)).length := by
    rw [slotActions, callsFrom_append] at hn
    simpa [callsFrom, callOf] using hn
  have hmirror : ∀ a ∈ mirrorActions p sl.kind, a ≠ .nextStep := by cases sl.kind <;> simp [mirrorActions]
  have hdelay : ∀ a ∈ delayActions sl.delay, a ≠ .nextStep := by
    rintro a ha rfl
    cases delayActions_calls _ _ ha
  rw [slotActions, untilCall_append n _ _ dc, if_pos hbody]
  refine stepFrom_of_still (fun a ha => ?_) k
  rcases List.mem_append.mp (mem_untilCall ha) with ha | ha
  · rcases List.mem_append.mp ha with ha | ha
    · exact sendActions_still _ _ a ha
    · exact hmirror a ha
  · exact hdelay a ha

/-- A frame leaves STEP or moves it to the next slot, the latter only where STEP is at a slot. -/
theorem frame_step {i : Instr} {s t : State} (hi : isOperation i = false) (h : exec i s = .next t) :
    t.step = s.step ∨ s.step.toNat < 18 ∧ t.step = s.step + 1#5 := by
  obtain ⟨-, hplace, -, hend⟩ := frame_next hi h
  by_cases hw : inWindow i s = true
  · have hprog : frameProgram i s = windowProgram s.par.cmd i := by rw [frameProgram, if_pos hw]
    have hstill := windowProgram_noStep s.par.cmd i
    rcases hend with ⟨-, rfl⟩ | ⟨n, -, -, rfl⟩
    · exact .inl (hprog ▸ stepFrom_of_still hstill s.step)
    · rw [takeAbort_step]
      exact .inl (hprog ▸ stepFrom_of_still (fun a ha => hstill a (mem_untilCall ha)) s.step)
  · have hprog : frameProgram i s = slotActions s.par (slotOf s.par s.rot s.cord (kindOf i)) := by
      rw [frameProgram, if_neg hw]
    have hlt : s.step.toNat < 18 := by
      simp only [placeOf, if_neg hw, slotInPlace, Bool.and_eq_true, decide_eq_true_eq] at hplace
      exact (List.getElem?_eq_some_iff.mp hplace.1.2).1
    rcases hend with ⟨-, rfl⟩ | ⟨n, hn, -, rfl⟩
    · exact .inr ⟨hlt, hprog ▸ slotActions_step s.par _ s.step⟩
    · rw [takeAbort_step]
      rw [frameCallsOf, hprog] at hn
      exact .inl (hprog ▸ stepFrom_slot_until hn s.step)

/-- A frame leaves TXBUF alone. -/
theorem frame_txbuf {i : Instr} {s t : State} (hi : isOperation i = false) (h : exec i s = .next t) :
    t.txbuf = s.txbuf := by
  have hop : frameOpOf i s ≠ .flush := by unfold frameOpOf; split <;> simp
  obtain ⟨-, -, -, ⟨-, rfl⟩ | ⟨n, -, -, rfl⟩⟩ := frame_next hi h
  · exact congrArg Prod.fst (pixelsFrom_of_still (frameProgram_noPixel i s) (s.txbuf, s.pix))
  · rw [takeAbort_txbuf, if_neg hop]
    exact congrArg Prod.fst
      (pixelsFrom_of_still (fun a ha => frameProgram_noPixel i s a (mem_untilCall ha)) (s.txbuf, s.pix))

/-! ### WIN_VALID after an operation -/

/-- After an operation that ran, WIN_VALID = 1 only in READY (Table 10-B). -/
theorem operation_winValid {i : Instr} {s t : State} (hi : isOperation i = true) (h : exec i s = .next t) :
    t = s.setErr (.sequenceError .order) ∨ (t.winValid = true → t.life = .ready) := by
  obtain ⟨-, -, ⟨-, ht⟩ | ⟨ha, -, ⟨-, ht⟩ | ⟨n, -, -, ht⟩⟩⟩ := operation_next hi h
  · exact .inl ht
  · refine .inr fun hv => ?_
    have hlife : t.life = lifeOnOk (opOf i) (startOf i s).life := by rw [ht]; rfl
    have hvalid : winValidFrom (startOf i s).winValid (programOf i s) = true := by
      rw [ht, returnOk_winValid] at hv; exact hv
    cases i
    case hwReset => rw [programOf, winValidFrom_calls (hwResetActions_calls _)] at hvalid; cases hvalid
    case init => exact hlife
    case send => rw [programOf, winValidFrom_calls (sendActions_calls _ _)] at hvalid; cases hvalid
    case flush | setWindow =>
      rw [hlife]
      show s.life = .ready
      revert ha
      cases s.life <;> simp [opOf, admitted]
    all_goals cases hi
  · exact .inr fun hv => by rw [ht] at hv; cases hv

/-! ### Every instruction keeps the invariants -/

theorem exec_keeps_lines {i : Instr} {s t : State} (hs : resetLineReleased s = true) (h : exec i s = .next t) :
    resetLineReleased t = true := by
  simp only [resetLineReleased, Bool.or_eq_true, decide_eq_true_eq] at hs ⊢
  rcases exec_effect h with ⟨rfl⟩ | ⟨-, rst, -⟩ | ⟨_, _, -, -, life⟩ | ⟨_, _, -, -, -, rst, life⟩ |
    ⟨_, _, -, -, before, rst, -⟩ | ⟨_, _, -, -, before, rst, -⟩
  · exact hs
  · exact .inr rst
  · exact .inl life
  · rwa [rst, life]
  · rw [before] at hs
    exact .inr (rst.trans (hs.resolve_left (by simp)))
  · rw [before] at hs
    exact .inr (rst.trans (hs.resolve_left (by simp)))

theorem exec_keeps_stepRange {i : Instr} {s t : State} (hs : stepInRange s = true) (h : exec i s = .next t) :
    stepInRange t = true := by
  simp only [stepInRange, decide_eq_true_eq] at hs ⊢
  by_cases hi : isOperation i = true
  · rcases operation_counters hi h with ⟨-, rfl⟩ | ⟨part, hpart⟩
    · exact hs
    · by_cases hinit : ∃ rot order, i = .init rot order
      · obtain ⟨rot, order, rfl⟩ := hinit
        exact hpart.init_step.1
      · rw [hpart.step_eq fun rot order he => hinit ⟨rot, order, he⟩]
        exact hs
  · rcases frame_step (by simpa using hi) h with he | ⟨hlt, he⟩
    · rw [he]; exact hs
    · rw [he, BitVec.toNat_add]
      simp
      omega

theorem exec_keeps_txbuf {i : Instr} {s t : State} (hs : txbufEmpty s = true) (h : exec i s = .next t) :
    txbufEmpty t = true := by
  simp only [txbufEmpty, decide_eq_true_eq] at hs ⊢
  by_cases hi : isOperation i = true
  · rcases operation_counters hi h with ⟨-, rfl⟩ | ⟨part, hpart⟩
    · exact hs
    · rw [hpart.txbuf]
      split
      · rfl
      · next hop =>
        rw [hpart.pixels_eq fun w he => hop (by rw [he]; rfl)]
        exact hs
  · rw [frame_txbuf (by simpa using hi) h]
    exact hs

theorem windowKnownOnlyWhenReady_iff {s : State} :
    windowKnownOnlyWhenReady s = true ↔ (s.winValid = true → s.life = .ready ∨ s.busy = true) := by
  cases hv : s.winValid <;> simp [windowKnownOnlyWhenReady, hv]

theorem exec_keeps_window {i : Instr} {s t : State} (hs : windowKnownOnlyWhenReady s = true)
    (h : exec i s = .next t) : windowKnownOnlyWhenReady t = true := by
  rw [windowKnownOnlyWhenReady_iff] at hs ⊢
  by_cases hi : isOperation i = true
  · rcases operation_winValid hi h with rfl | hready
    · exact hs
    · exact fun hv => .inl (hready hv)
  · obtain ⟨hp, -, -, ⟨-, rfl⟩ | ⟨n, -, -, rfl⟩⟩ := frame_next (by simpa using hi) h
    · exact fun _ => .inr (inProgress_iff.mp hp).2
    · exact fun hv => absurd hv Bool.false_ne_true

theorem exec_keeps_handle {i : Instr} {s t : State} (h : exec i s = .next t) : handleWellFormed t = true := by
  obtain ⟨calls, failed, hran⟩ := exec_keeps h
  have hwf := (noMeaning_eq_none.mp (exec_hasMeaning h)).2
  simp [handleWellFormed, hran.cfg, hran.par, hwf]

/-- Every instruction keeps the invariants of the registers. -/
theorem exec_keeps_legal {i : Instr} {s t : State} (hs : Legal s) (h : exec i s = .next t) : Legal t where
  lines := exec_keeps_lines hs.lines h
  stepRange := exec_keeps_stepRange hs.stepRange h
  txbuf := exec_keeps_txbuf hs.txbuf h
  window := exec_keeps_window hs.window h
  handle := exec_keeps_handle h
  memory := by
    obtain ⟨calls, failed, hran⟩ := exec_keeps h
    rw [hran.fb]
    exact hs.memory

/-- Settles O53: over what a step can do (`step_cases`), an instruction keeping each invariant by its own lemma. -/
theorem stepKeepsRegistersLegal : Obligations.StepKeepsRegistersLegal := by
  intro s t hs h
  rcases step_cases h with ⟨-, rfl⟩ | ⟨i, rest, he⟩ | ⟨a, v, rest, -, -, rfl⟩ | ⟨n, rest, -, rfl⟩ |
    ⟨cfg, par, rest, -, hwf, rfl⟩ | ⟨rest, -, -, rfl⟩
  · exact hs
  · exact exec_keeps_legal (s := { s with requests := rest })
      ⟨hs.lines, hs.stepRange, hs.txbuf, hs.window, hs.handle, hs.memory⟩ he
  · exact ⟨hs.lines, hs.stepRange, hs.txbuf, hs.window, hs.handle, writePixel_wf hs.memory a v⟩
  · exact ⟨hs.lines, hs.stepRange, hs.txbuf, hs.window, hs.handle, rfl⟩
  · exact ⟨rfl, rfl, rfl, rfl, by simpa [handleWellFormed, State.blockReset] using hwf, hs.memory⟩
  · exact ⟨hs.lines, hs.stepRange, hs.txbuf, hs.window, rfl, hs.memory⟩

end Sys2Proof.Machine

/-! SUPPORT. The registers with no reset value are never read before they are written (spec/10_state.md R40): two states that
differ in those registers only run every host operation to the same end. -/

namespace Sys2Proof.Machine

open Sys2Proof

/-- `s` with other values of the registers that have no reset value. -/
def State.withUnspecified (s : State) (dc : Level) (rst : ResetLevel) (cord : ColorOrder) (win : Window)
    (rot : Rotation) : State :=
  { s with dc := dc, rst := rst, cord := cord, win := win, rot := rot }

/-- Two states that differ in the registers with no reset value only, and in READY not in ROT. -/
inductive Alike (s : State) : State → Prop
  | intro (dc : Level) (rst : ResetLevel) (cord : ColorOrder) (win : Window) (rot : Rotation)
      (hrot : s.life = .ready → rot = s.rot) : Alike s (s.withUnspecified dc rst cord win rot)

/-- Two answers of the same kind, next states alike. -/
def OutAlike : Out → Out → Prop
  | .next s, .next t => Alike s t
  | .fault f, .fault g => f = g
  | .refused r, .refused q => r = q
  | _, _ => False

theorem OutAlike.of_next {o : Out} {s : State} (h : OutAlike (.next s) o) : ∃ t, o = .next t ∧ Alike s t := by
  cases o with
  | next t => exact ⟨t, rfl, h⟩
  | fault f => cases h
  | refused r => cases h

theorem OutAlike.of_fault {o : Out} {f : Fault} (h : OutAlike (.fault f) o) : o = .fault f := by
  cases o with
  | next t => cases h
  | fault g => exact congrArg _ (Eq.symm h)
  | refused r => cases h

theorem OutAlike.of_refused {o : Out} {r : Refusal} (h : OutAlike (.refused r) o) : o = .refused r := by
  cases o with
  | next t => cases h
  | fault f => cases h
  | refused q => exact congrArg _ (Eq.symm h)

/-! ### Programs -/

section

variable {as : List Action} {s t : State} (h : Alike s t) (hc : callsFrom t.dc as = callsFrom s.dc as)

include h hc

theorem alike_finished : Alike (finished as s) (finished as t) := by
  obtain ⟨dc, rst, cord, win, rot, hrot⟩ := h
  have he : finished as (s.withUnspecified dc rst cord win rot) = (finished as s).withUnspecified
      (levelAfter dc (callsFrom s.dc as)) (resetLineAfter rst (callsFrom s.dc as)) cord (winFrom win as) rot := by
    simp only [finished, hc]
    rfl
  rw [he]
  exact .intro _ _ _ _ _ hrot

theorem alike_stopped (n : Nat) : Alike (stopped as n s) (stopped as n t) := by
  obtain ⟨dc, rst, cord, win, rot, hrot⟩ := h
  have he : stopped as n (s.withUnspecified dc rst cord win rot) = (stopped as n s).withUnspecified
      (levelAfter dc ((callsFrom s.dc as).take n)) (resetLineAfter rst ((callsFrom s.dc as).take n)) cord
      (winFrom win (untilCall n as)) rot := by
    simp only [stopped, hc]
    rfl
  rw [he]
  exact .intro _ _ _ _ _ hrot

end

/-- The normal return keeps two states alike; INITIALIZE, which enters READY, needs ROT alike (R180). -/
theorem alike_returnOk {op : HostOp} {s t : State} (h : Alike s t) (hinit : op = .init → t.rot = s.rot) :
    Alike (returnOk op s) (returnOk op t) := by
  obtain ⟨dc, rst, cord, win, rot, hrot⟩ := h
  cases op
  case hwReset => exact .intro _ _ _ _ _ fun hl => by cases hl
  case init => exact .intro _ _ _ _ _ fun _ => hinit rfl
  case flush | setWindow | send => exact .intro _ _ _ _ _ hrot

theorem alike_takeAbort {op : HostOp} {e : Result} {s t : State} (h : Alike s t) :
    Alike (takeAbort op e s) (takeAbort op e t) := by
  obtain ⟨dc, rst, cord, win, rot, hrot⟩ := h
  cases op
  case hwReset | init => exact .intro _ _ _ _ _ fun hl => by cases hl
  case flush | setWindow | send => exact .intro _ _ _ _ _ hrot

/-- A program that makes the same calls from both states ends the same way. -/
theorem alike_conclude {op : HostOp} {as : List Action} {s t : State} (h : Alike s t)
    (hc : callsFrom t.dc as = callsFrom s.dc as) (hinit : op = .init → t.rot = s.rot) :
    OutAlike (conclude op (runActions as s)) (conclude op (runActions as t)) := by
  have henv : t.env = s.env := by cases h; rfl
  have hxfers : t.xfers = s.xfers := by cases h; rfl
  rcases runActions_total as s with ⟨hok, hs⟩ | ⟨n, hn, hf, hs⟩ | ⟨hs, -⟩
  · have hok' : answersOk (callsFrom t.dc as).length t = true := by rw [hc]; exact answersOk_env hok henv
    rw [hs, runActions_finished hok']
    exact alike_returnOk (alike_finished h hc) hinit
  · rw [hs, runActions_stopped (by rw [hc]; exact hn) (failsAfter_env hf henv), hc, hxfers]
    exact alike_takeAbort (alike_stopped h hc n)
  · have ht : runActions as t = .hung := by
      rcases runActions_total as t with ⟨hok, -⟩ | ⟨n, hn, hf, -⟩ | ⟨ht, -⟩
      · rw [hc] at hok
        rw [runActions_finished (answersOk_env hok henv.symm)] at hs
        cases hs
      · rw [hc] at hn
        rw [runActions_stopped hn (failsAfter_env hf henv.symm)] at hs
        cases hs
      · exact ht
    rw [hs, ht]
    exact rfl

/-! ### Operations -/

/-- Two alike states pass the same tests on the way into an operation. -/
theorem alike_issue {op : HostOp} {ok : Bool} {premise premise' : Option Refusal} {body body' : State → Progress}
    {s t : State} (h : Alike s t) (hpremise : admitted op s.life = true → premise' = premise)
    (hbody : admitted op s.life = true → OutAlike (conclude op (body s.enter)) (conclude op (body' t.enter))) :
    OutAlike (issue op ok premise body s) (issue op ok premise' body' t) := by
  obtain ⟨hn, hb, hl⟩ : noMeaning t = noMeaning s ∧ t.busy = s.busy ∧ t.life = s.life := by
    cases h; exact ⟨rfl, rfl, rfl⟩
  unfold issue
  rw [hn, hb, hl]
  cases noMeaning s with
  | some r => exact rfl
  | none =>
    by_cases hbusy : s.busy = true
    · simp only [hbusy, if_true]; exact rfl
    · by_cases hok : ok = true
      · by_cases ha : admitted op s.life = true
        · simp only [hbusy, hok, ha, hpremise ha]
          cases premise with
          | some r => exact rfl
          | none => exact hbody ha
        · simp only [hbusy, hok, ha]
          obtain ⟨dc, rst, cord, win, rot, hrot⟩ := h
          exact .intro _ _ _ _ _ hrot
      · simp only [hbusy, hok]; exact rfl

/-- An operation's calls do not depend on the mode-select level it starts at: it drives DC before each transfer. -/
theorem callsFrom_programOf {i : Instr} (hi : isOperation i = true) (s : State) (dc dc' : Level) :
    callsFrom dc (programOf i s) = callsFrom dc' (programOf i s) := by
  cases i
  case hwReset => rfl
  case init rot order => exact (callsFrom_initActions ..).trans (callsFrom_initActions ..).symm
  case flush w => exact (callsFrom_flush ..).trans (callsFrom_flush ..).symm
  case setWindow w => exact (callsFrom_setWindow ..).trans (callsFrom_setWindow ..).symm
  case send cmd data => exact (callsFrom_sendActions ..).trans (callsFrom_sendActions ..).symm
  all_goals cases hi

/-- Two alike states pass the same window check: outside READY it does not read ROT (R22, R69). -/
theorem alike_operandsOk {s t : State} (h : Alike s t) (i : Instr) : operandsOk i t = operandsOk i s := by
  obtain ⟨dc, rst, cord, win, rot, hrot⟩ := h
  by_cases hl : s.life = .ready
  · rw [hrot hl]; rfl
  · exact (if_neg hl).trans (if_neg hl).symm

/-- Where an operation is admitted, it has one program and one premise in two alike states. -/
theorem alike_program {i : Instr} {s t : State} (h : Alike s t) (ha : admitted (opOf i) s.life = true) :
    programOf i t = programOf i s ∧ premiseOf i t = premiseOf i s := by
  obtain ⟨dc, rst, cord, win, rot, hrot⟩ := h
  cases i
  case flush w =>
    have hl : s.life = .ready := by revert ha; cases s.life <;> simp [opOf, admitted]
    rw [hrot hl]
    exact ⟨rfl, rfl⟩
  all_goals exact ⟨rfl, rfl⟩

theorem alike_startOf {s t : State} (h : Alike s t) (i : Instr) : Alike (startOf i s) (startOf i t) := by
  obtain ⟨dc, rst, cord, win, rot, hrot⟩ := h
  cases i
  case hwReset => exact .intro _ _ _ _ _ fun hl => by cases hl
  case init => exact .intro _ _ _ _ _ fun _ => rfl
  all_goals exact .intro _ _ _ _ _ hrot

/-- INITIALIZE starts with the ROT of its operands (R180). -/
theorem startOf_init_rot {i : Instr} (h : opOf i = .init) (s t : State) : (startOf i t).rot = (startOf i s).rot := by
  cases i <;> simp [opOf] at h
  rfl

/-- Two alike states run every host operation to the same end. -/
theorem alike_exec {i : Instr} {s t : State} (hi : isOperation i = true) (h : Alike s t) :
    OutAlike (exec i s) (exec i t) := by
  rw [exec_operation hi, exec_operation hi, alike_operandsOk h]
  refine alike_issue h (fun ha => (alike_program h ha).2) fun ha => ?_
  rw [programOf_enter, programOf_enter, (alike_program h ha).1]
  exact alike_conclude (alike_startOf h i) (callsFrom_programOf hi s _ _) fun hinit => startOf_init_rot hinit s t

/-- Settles O52: two states that differ in the registers with no reset value only run every operation alike. -/
theorem unspecifiedRegistersAreNeverRead : Obligations.UnspecifiedRegistersAreNeverRead := by
  intro s t i dc rst cord win rot hi ht
  have h : Alike s t := by rw [ht]; exact .intro _ _ _ _ _ fun hl => if_pos hl
  have hout := alike_exec hi h
  refine ⟨fun s' he => ?_, fun f he => ?_, fun r he => ?_⟩
  · rw [he] at hout
    obtain ⟨t', ht', hrel⟩ := hout.of_next
    refine ⟨t', ht', ?_⟩
    obtain ⟨dc', rst', cord', win', rot', hrot'⟩ := hrel
    exact ⟨rfl, hrot'⟩
  · rw [he] at hout
    exact hout.of_fault
  · rw [he] at hout
    exact hout.of_refused

end Sys2Proof.Machine

/-! SUPPORT. Every step keeps the invariants of the trace: framing (spec/30_encoding.md R94), the settle wait
(spec/41_reset_sequencer.md R145) and the bounds on requested sleep (spec/70_reset_and_hazards.md R295). -/

namespace Sys2Proof.Machine

open Sys2Proof

/-! ### Framing -/

/-- Whether a call fits R94 where it stands. -/
def callFits (frameOpen : Bool) : Event → Bool
  | .busXfer .low bs => decide (bs.length = 1)
  | .busXfer .high bs => frameOpen && decide (1 ≤ bs.length)
  | .gpioRst _ | .gpioDc _ | .sleep _ => true

/-- Whether a command byte has been sent since the last panel reset, after a call. -/
def openAfter (frameOpen : Bool) : Event → Bool
  | .busXfer .low _ => true
  | .gpioRst .assert => false
  | .busXfer .high _ | .gpioRst .deassert | .gpioDc _ | .sleep _ => frameOpen

theorem framedFrom_cons (b : Bool) (e : Entry) (es : List Entry) :
    framedFrom b (e :: es) = (callFits b e.event && framedFrom (openAfter b e.event) es) := by
  rw [framedFrom]
  cases e.event with
  | gpioRst l => cases l <;> rfl
  | gpioDc l => rfl
  | sleep n => rfl
  | busXfer l bs => cases l <;> rfl

theorem framedFrom_append (b : Bool) (xs ys : List Entry) :
    framedFrom b (xs ++ ys) =
      (framedFrom b xs && framedFrom (xs.foldl (fun c e => openAfter c e.event) b) ys) := by
  induction xs generalizing b with
  | nil => rfl
  | cons e xs ih => rw [List.cons_append, framedFrom_cons, framedFrom_cons, ih, Bool.and_assoc, List.foldl_cons]

/-- Framing reads the calls of a trace, not their answers (R94). -/
theorem framedFrom_events (b : Bool) (es : List Entry) : framedFrom b es = framedFrom b (okEntries (es.map Entry.event)) := by
  induction es generalizing b with
  | nil => rfl
  | cons e es ih =>
    rw [framedFrom_cons, ih]
    exact (framedFrom_cons b { event := e.event, ok := true } _).symm

/-- What is well framed with no frame open is well framed with one open. -/
theorem framedFrom_of_closed {es : List Entry} (h : framedFrom false es = true) (b : Bool) : framedFrom b es = true := by
  induction es generalizing b with
  | nil => rfl
  | cons e es ih =>
    rw [framedFrom_cons, Bool.and_eq_true] at h ⊢
    obtain ⟨hfits, hrest⟩ := h
    cases he : e.event with
    | gpioRst l => rw [he] at hrest; cases l <;> exact ⟨rfl, ih hrest _⟩
    | gpioDc l => rw [he] at hrest; exact ⟨rfl, ih hrest b⟩
    | sleep n => rw [he] at hrest; exact ⟨rfl, ih hrest b⟩
    | busXfer l bs =>
      rw [he] at hfits hrest
      cases l with
      | low => exact ⟨hfits, hrest⟩
      | high => cases hfits

theorem framedFrom_join {xs ys : List Entry} {b : Bool} (hx : framedFrom b xs = true) (hy : framedFrom false ys = true) :
    framedFrom b (xs ++ ys) = true := by
  rw [framedFrom_append, hx, Bool.true_and]
  exact framedFrom_of_closed hy _

theorem framedFrom_left {xs ys : List Entry} {b : Bool} (h : framedFrom b (xs ++ ys) = true) : framedFrom b xs = true := by
  rw [framedFrom_append, Bool.and_eq_true] at h
  exact h.1

/-- Calls that are well framed with no frame open before them. -/
def framedCalls (es : List Event) : Prop := framedFrom false (okEntries es) = true

theorem framedCalls_append {xs ys : List Event} (hx : framedCalls xs) (hy : framedCalls ys) : framedCalls (xs ++ ys) := by
  rw [framedCalls, okEntries_append]
  exact framedFrom_join hx hy

theorem framedCalls_flatMap {α : Type} {xs : List α} {f : α → List Event} (h : ∀ x ∈ xs, framedCalls (f x)) :
    framedCalls (xs.flatMap f) := by
  induction xs with
  | nil => exact rfl
  | cons x xs ih =>
    exact framedCalls_append (h x (List.mem_cons_self ..)) (ih fun y hy => h y (List.mem_cons_of_mem _ hy))

theorem framedCalls_frame (f : Frame) : framedCalls (frameCalls f) := by
  by_cases hd : f.data = []
  · simp [framedCalls, frameCalls, hd, okEntries, framedFrom]
  · have hlen : 1 ≤ f.data.length := List.length_pos_iff.mpr hd
    simp [framedCalls, frameCalls, hd, okEntries, framedFrom, hlen]

theorem framedCalls_slot (x : SlotCase) : framedCalls x.calls := by
  refine framedCalls_append (framedCalls_frame x.frame) ?_
  split <;> exact rfl

/-- Chunks that are not empty are well framed after a command byte. -/
theorem framedFrom_chunks {bss : List (List Byte)} (h : ∀ bs ∈ bss, bs ≠ []) :
    framedFrom true (okEntries (bss.map (.busXfer .high))) = true := by
  induction bss with
  | nil => rfl
  | cons bs bss ih =>
    have hlen : 1 ≤ bs.length := List.length_pos_iff.mpr (h bs (List.mem_cons_self ..))
    have hrest := ih fun cs hcs => h cs (List.mem_cons_of_mem _ hcs)
    simp only [okEntries, List.map_cons, framedFrom, Bool.true_and, hlen, decide_true] at hrest ⊢
    exact hrest

theorem framedCalls_setWindow (c : CmdBytes) (w : Window) : framedCalls (setWindowCalls c w) :=
  framedCalls_append (framedCalls_append (framedCalls_frame _) (framedCalls_frame _)) (framedCalls_frame _)

theorem framedCalls_flush {s : State} (hn : noMeaning s = none) (w : Window) : framedCalls (flushCalls s w) := by
  have hchunks := framedFrom_chunks (chunks_ne_nil (maxXfer_pos hn) (flushPayload s w))
  rw [framedCalls, flushCalls, setWindowCalls_eq]
  simpa [okEntries, framedFrom, rangeData, be16] using hchunks

/-- Every instruction's calls are well framed (R94). -/
theorem framedCalls_instr {s : State} (hn : noMeaning s = none) (i : Instr) : framedCalls (instrCalls i s) := by
  by_cases hi : isOperation i = true
  · rw [instrCalls, if_pos hi]
    cases i
    case hwReset => exact rfl
    case init rot order =>
      rw [callsOf_init]
      exact framedCalls_flatMap fun x _ => framedCalls_slot x
    case flush w => rw [callsOf_flush]; exact framedCalls_flush hn w
    case setWindow w => rw [callsOf_setWindow]; exact framedCalls_setWindow _ w
    case send cmd data => rw [callsOf_send]; exact framedCalls_frame _
    all_goals cases hi
  · rw [instrCalls, if_neg hi, frameCallsOf_eq]
    exact framedCalls_slot ⟨i, 0, (frameOf i s).1, (frameOf i s).2⟩

theorem events_okEntries (es : List Event) : (okEntries es).map Entry.event = es := by
  rw [okEntries, List.map_map]
  exact List.map_id es

/-- Every instruction keeps the framing of the wire. -/
theorem exec_keeps_framed {i : Instr} {s t : State} (hs : framed s.trace = true) (h : exec i s = .next t) :
    framed t.trace = true := by
  have hcalls := framedCalls_instr (exec_hasMeaning h) i
  rcases exec_ran h with ⟨-, -, rfl, -⟩ | ⟨hran, -⟩ | ⟨n, hn, -, hran, -⟩
  · exact hs
  · rw [hran.trace, Option.toList_none, List.map_nil, List.append_nil]
    exact framedFrom_join hs hcalls
  · rw [hran.trace, List.append_assoc]
    refine framedFrom_join hs ?_
    rw [framedFrom_events]
    have hevents : (okEntries ((instrCalls i s).take n) ++
        (some (failingCall (instrCalls i s) n)).toList.map failedEntry).map Entry.event =
          (instrCalls i s).take (n + 1) := by
      rw [List.map_append, events_okEntries, List.take_succ_eq_append_getElem hn, failingCall,
        List.getD_eq_getElem _ _ hn]
      rfl
    rw [hevents]
    refine framedFrom_left (ys := okEntries ((instrCalls i s).drop (n + 1))) ?_
    rw [← okEntries_append, List.take_append_drop]
    exact hcalls

/-- Every step keeps the framing of the wire (R94). -/
theorem step_keeps_framed {s t : State} (hs : framed s.trace = true) (h : step s = .next t) : framed t.trace = true := by
  rcases step_cases h with ⟨-, rfl⟩ | ⟨i, rest, he⟩ | ⟨a, v, rest, -, -, rfl⟩ | ⟨n, rest, -, rfl⟩ |
    ⟨cfg, par, rest, -, -, rfl⟩ | ⟨rest, -, -, rfl⟩
  · exact hs
  · exact exec_keeps_framed (s := { s with requests := rest }) hs he
  · exact hs
  · exact hs
  · rfl
  · exact hs

/-! ### The handle -/

/-- A handle that can run an instruction has the delays of Table 70-A at least. -/
theorem delays_of_hasMeaning {s : State} (h : noMeaning s = none) :
    1 ≤ s.par.delays.rstAssert ∧ 10 ≤ s.par.delays.rstHold ∧ 120 ≤ s.par.delays.rstSettle ∧
      120 ≤ s.par.delays.sleepExit ∧ 120 ≤ s.par.delays.displayOn := by
  have hp := (noMeaning_eq_none.mp h).2
  simp only [parametersWf, Bool.and_eq_true] at hp
  simpa [delaysWf, and_assoc] using hp.1.1.1.1.2

/-- Every step keeps it that a handle exists with well-formed parameters only (R284). -/
theorem step_keeps_handle {s t : State} (hs : handleWellFormed s = true) (h : step s = .next t) :
    handleWellFormed t = true := by
  rcases step_cases h with ⟨-, rfl⟩ | ⟨i, rest, he⟩ | ⟨a, v, rest, -, -, rfl⟩ | ⟨n, rest, -, rfl⟩ |
    ⟨cfg, par, rest, -, hwf, rfl⟩ | ⟨rest, -, -, rfl⟩
  · exact hs
  · exact exec_keeps_handle he
  · exact hs
  · exact hs
  · simpa [handleWellFormed, State.blockReset] using hwf
  · rfl

/-! ### The settle wait -/

theorem settledMs_append (b : Option Nat) (xs ys : List Entry) :
    settledMs b (xs ++ ys) = settledMs (settledMs b xs) ys := List.foldl_append

theorem transfersSettledFrom_append (b : Option Nat) (xs ys : List Entry) :
    transfersSettledFrom b (xs ++ ys) = (transfersSettledFrom b xs && transfersSettledFrom (settledMs b xs) ys) := by
  induction xs generalizing b with
  | nil => rfl
  | cons e xs ih =>
    simp only [List.cons_append, transfersSettledFrom, ih, Bool.and_assoc]
    rfl

/-- A trace in which the wait is over, and every transfer came after it. -/
def SettledNow (es : List Entry) : Prop :=
  transfersSettledFrom none es = true ∧ settledFor130 (settledMs none es) = true

/-- Once the wait is over, every call but a drive of the reset line keeps it so. -/
theorem settledStep_quiet {b : Option Nat} {e : Entry} (he : ∀ l, e.event ≠ .gpioRst l) (hb : settledFor130 b = true) :
    settledFor130 (settledStep b e) = true := by
  cases b with
  | none => cases hb
  | some d =>
    have hd : 130 ≤ d := by simpa [settledFor130] using hb
    unfold settledStep
    split
    · next h => exact absurd h (he _)
    · next h => exact absurd h (he _)
    · exact hb
    · exact hb
    · split
      · simp only [Option.map_some, settledFor130, decide_eq_true_eq]
        omega
      · exact hb

theorem SettledNow.append {xs ys : List Entry} (hx : SettledNow xs) (hy : ∀ e ∈ ys, ∀ l, e.event ≠ .gpioRst l) :
    SettledNow (xs ++ ys) := by
  obtain ⟨h1, h2⟩ := hx
  rw [SettledNow, transfersSettledFrom_append, settledMs_append, h1, Bool.true_and]
  clear h1
  generalize settledMs none xs = b at h2
  induction ys generalizing b with
  | nil => exact ⟨rfl, h2⟩
  | cons e ys ih =>
    have he := settledStep_quiet (hy e (List.mem_cons_self ..)) h2
    obtain ⟨h3, h4⟩ := ih (fun f hf => hy f (List.mem_cons_of_mem _ hf)) _ he
    exact ⟨by simp [transfersSettledFrom, h2, h3], h4⟩

theorem transfersSettledFrom_of_noTransfer {es : List Entry} (h : ∀ e ∈ es, eventTransfer e.event = none)
    (b : Option Nat) : transfersSettledFrom b es = true := by
  induction es generalizing b with
  | nil => rfl
  | cons e es ih =>
    simp [transfersSettledFrom, h e (List.mem_cons_self ..), ih fun f hf => h f (List.mem_cons_of_mem _ hf)]

/-- The calls an instruction appended to TRACE, whatever they answered. -/
theorem mem_ranEntries {calls : List Event} {failed : Option Event} {e : Entry}
    (h : e ∈ okEntries calls ++ failed.toList.map failedEntry) : e.event ∈ calls ++ failed.toList := by
  rcases List.mem_append.mp h with h | h
  · obtain ⟨x, hx, rfl⟩ := List.mem_map.mp h
    exact List.mem_append_left _ hx
  · obtain ⟨x, hx, rfl⟩ := List.mem_map.mp h
    exact List.mem_append_right _ hx

theorem Ran.settledNow {s t : State} {calls : List Event} {failed : Option Event} (h : Ran s t calls failed)
    (hs : SettledNow s.trace) (hquiet : ∀ e ∈ calls ++ failed.toList, ∀ l, e ≠ .gpioRst l) : SettledNow t.trace := by
  rw [h.trace, List.append_assoc]
  exact hs.append fun e he => hquiet _ (mem_ranEntries he)

/-- Calls among which no transfer is keep it that every transfer came after the wait. -/
theorem Ran.transfersSettled {s t : State} {calls : List Event} {failed : Option Event} (h : Ran s t calls failed)
    (hs : transfersSettledFrom none s.trace = true) (hno : ∀ e ∈ calls ++ failed.toList, eventTransfer e = none) :
    transfersSettledFrom none t.trace = true := by
  rw [h.trace, List.append_assoc, transfersSettledFrom_append, hs, Bool.true_and]
  exact transfersSettledFrom_of_noTransfer (fun e he => hno _ (mem_ranEntries he)) _

theorem hwResetCalls_noTransfer {d : Delays} {e : Event} (h : e ∈ hwResetCalls d) : eventTransfer e = none := by
  simp only [hwResetCalls, List.mem_cons, List.not_mem_nil, or_false] at h
  rcases h with rfl | rfl | rfl | rfl | rfl <;> rfl

/-- HW_RESET's five calls end with the wait over (R141). -/
theorem settledMs_hwReset (b : Option Nat) (d : Delays) :
    settledMs b (okEntries (hwResetCalls d)) = some (0 + d.rstHold + d.rstSettle) := rfl

/-- Every instruction keeps it that no byte is sent before the settle wait is over. -/
theorem exec_keeps_settled {i : Instr} {s t : State} (hs : Settled s) (h : exec i s = .next t) : Settled t := by
  obtain ⟨-, htransfers, hnow⟩ := hs
  have hquiet : ∀ {calls failed}, Ran s t calls failed → (∀ e ∈ calls ++ failed.toList, ∀ l, e ≠ .gpioRst l) →
      s.life ≠ .unreset → Settled t := by
    intro calls failed hran hq hlife
    have ht := hran.settledNow ⟨htransfers, hnow.resolve_left hlife⟩ hq
    exact ⟨exec_keeps_handle h, ht.1, .inr ht.2⟩
  rcases exec_effect h with ⟨rfl⟩ | ⟨hran, -, -⟩ | ⟨calls, failed, hran, hsub, hlife⟩ |
    ⟨calls, failed, hran, hq, hbefore, -, -⟩ | ⟨rot, order, hran, hq, hbefore, -, -⟩ |
    ⟨calls, failed, hran, hq, hbefore, -, -⟩
  · exact ⟨exec_keeps_handle h, htransfers, hnow⟩
  · obtain ⟨-, hhold, hsettle, -⟩ := delays_of_hasMeaning (exec_hasMeaning h)
    refine ⟨exec_keeps_handle h, hran.transfersSettled htransfers ?_, .inr ?_⟩
    · intro e he
      exact hwResetCalls_noTransfer (by simpa using he)
    · rw [hran.trace, Option.toList_none, List.map_nil, List.append_nil, settledMs_append, settledMs_hwReset]
      simp only [settledFor130, decide_eq_true_eq]
      omega
  · exact ⟨exec_keeps_handle h, hran.transfersSettled htransfers fun e he => hwResetCalls_noTransfer (hsub e he),
      .inl hlife⟩
  · exact hquiet hran hq (by rcases hbefore with hl | hl <;> rw [hl] <;> simp)
  · exact hquiet hran (by simpa using hq) (by rw [hbefore]; simp)
  · exact hquiet hran hq (by rw [hbefore]; simp)

/-- Every step keeps it that no byte is sent before the settle wait of the last HW_RESET is over (R145). -/
theorem step_keeps_settled {s t : State} (hs : Settled s) (h : step s = .next t) : Settled t := by
  have hhandle := step_keeps_handle hs.handle h
  rcases step_cases h with ⟨-, rfl⟩ | ⟨i, rest, he⟩ | ⟨a, v, rest, -, -, rfl⟩ | ⟨n, rest, -, rfl⟩ |
    ⟨cfg, par, rest, -, -, rfl⟩ | ⟨rest, -, -, rfl⟩
  · exact hs
  · exact exec_keeps_settled (s := { s with requests := rest }) ⟨hs.handle, hs.transfers, hs.now⟩ he
  · exact ⟨hhandle, hs.transfers, hs.now⟩
  · exact ⟨hhandle, hs.transfers, hs.now⟩
  · exact ⟨hhandle, rfl, .inl rfl⟩
  · exact ⟨hhandle, hs.transfers, hs.now⟩

/-! ### Requested sleep -/

/-- R295's bound for each LIFE. -/
def sleepBound : Life → Nat
  | .unreset => 0
  | .resetDone => 131
  | .failed => 131
  | .ready => 371

theorem sleptEnough_iff {s : State} : sleptEnough s = true ↔ sleepBound s.life ≤ sleptMs s.trace := by
  unfold sleptEnough sleepBound
  cases s.life <;> simp

theorem sleptMs_append (xs ys : List Entry) : sleptMs (xs ++ ys) = sleptMs xs + sleptMs ys := by
  simp [sleptMs]

theorem sleptMs_failed (e : Event) : sleptMs [failedEntry e] = 0 := by
  cases e <;> rfl

/-- NOW advances by what is asked for at least (R17, R35). -/
theorem sleptMs_le_elapsed (es : List Event) (env : List Answer) : sleptMs (okEntries es) ≤ elapsed es env := by
  induction es generalizing env with
  | nil => exact le_rfl
  | cons e es ih =>
    have hcons : sleptMs (okEntries (e :: es)) = sleptMs (okEntries [e]) + sleptMs (okEntries es) :=
      sleptMs_append (okEntries [e]) (okEntries es)
    have hrest := ih (env.drop 1)
    rw [hcons]
    cases e <;> simp [sleptMs, okEntries, elapsed] at hrest ⊢ <;> omega

theorem Ran.sleptMs_eq {s t : State} {calls : List Event} {failed : Option Event} (h : Ran s t calls failed) :
    sleptMs t.trace = sleptMs s.trace + sleptMs (okEntries calls) := by
  rw [h.trace, sleptMs_append, sleptMs_append]
  cases failed with
  | none => rfl
  | some e => exact congrArg _ (sleptMs_failed e)

theorem sleptMs_frame (f : Frame) : sleptMs (okEntries (frameCalls f)) = 0 := by
  by_cases hd : f.data = [] <;> simp [sleptMs, okEntries, frameCalls, hd]

theorem sleptMs_slot (x : SlotCase) : sleptMs (okEntries x.calls) = x.delay := by
  rw [SlotCase.calls, okEntries_append, sleptMs_append, sleptMs_frame]
  split
  · next h => simp [sleptMs, h]
  · simp [sleptMs, okEntries]

theorem sleptMs_slots (xs : List SlotCase) :
    sleptMs (okEntries (xs.flatMap SlotCase.calls)) = (xs.map SlotCase.delay).sum := by
  induction xs with
  | nil => rfl
  | cons x xs ih =>
    rw [List.flatMap_cons, okEntries_append, sleptMs_append, sleptMs_slot, ih, List.map_cons, List.sum_cons]

/-- INITIALIZE asks for its two post-delays (R177). -/
theorem sleptMs_init (p : Params) (rot : Rotation) (order : ColorOrder) :
    sleptMs (okEntries (initCalls p rot order)) = p.delays.sleepExit + p.delays.displayOn := by
  rw [initCalls, sleptMs_slots]
  simp [slotCases]

theorem sleptMs_hwReset (d : Delays) :
    sleptMs (okEntries (hwResetCalls d)) = d.rstAssert + d.rstHold + d.rstSettle := by
  simp [sleptMs, okEntries, hwResetCalls, Nat.add_assoc]

theorem exec_keeps_clock {i : Instr} {s t : State} (hs : clockCoversSleep s = true) (h : exec i s = .next t) :
    clockCoversSleep t = true := by
  simp only [clockCoversSleep, decide_eq_true_eq] at hs ⊢
  obtain ⟨calls, failed, hran⟩ := exec_keeps h
  rw [hran.sleptMs_eq, hran.now]
  exact Nat.add_le_add hs (sleptMs_le_elapsed calls s.env)

theorem exec_keeps_slept {i : Instr} {s t : State} (hs : sleptEnough s = true) (h : exec i s = .next t) :
    sleptEnough t = true := by
  obtain ⟨hassert, hhold, hsettle, hexit, hon⟩ := delays_of_hasMeaning (exec_hasMeaning h)
  rw [sleptEnough_iff] at hs ⊢
  rcases exec_effect h with ⟨rfl⟩ | ⟨hran, -, hlife⟩ | ⟨calls, failed, hran, -, hlife⟩ |
    ⟨calls, failed, hran, -, -, -, hlife⟩ | ⟨rot, order, hran, -, hbefore, -, hlife⟩ |
    ⟨calls, failed, hran, -, hbefore, -, hlife⟩
  · exact hs
  · rw [hran.sleptMs_eq, hlife, sleptMs_hwReset]
    simp only [sleepBound]
    omega
  · rw [hlife]
    exact Nat.zero_le _
  · rw [hran.sleptMs_eq, hlife]
    exact hs.trans (Nat.le_add_right _ _)
  · rw [hbefore] at hs
    rw [hran.sleptMs_eq, hlife, sleptMs_init]
    simp only [sleepBound] at hs ⊢
    omega
  · rw [hbefore] at hs
    rw [hran.sleptMs_eq, hlife]
    exact hs.trans (Nat.le_add_right _ _)

/-- Every step keeps the bounds on requested sleep (R295, R17, R35). -/
theorem step_keeps_timed {s t : State} (hs : Timed s) (h : step s = .next t) : Timed t := by
  have hhandle := step_keeps_handle hs.handle h
  rcases step_cases h with ⟨-, rfl⟩ | ⟨i, rest, he⟩ | ⟨a, v, rest, -, -, rfl⟩ | ⟨n, rest, -, rfl⟩ |
    ⟨cfg, par, rest, -, -, rfl⟩ | ⟨rest, -, -, rfl⟩
  · exact hs
  · exact ⟨hhandle, exec_keeps_slept (s := { s with requests := rest }) hs.slept he,
      exec_keeps_clock (s := { s with requests := rest }) hs.clock he⟩
  · exact ⟨hhandle, hs.slept, hs.clock⟩
  · exact ⟨hhandle, hs.slept, hs.clock⟩
  · exact ⟨hhandle, rfl, rfl⟩
  · exact ⟨hhandle, hs.slept, hs.clock⟩

/-! ### Reachable states -/

/-- Settles O59, by induction on the run: block reset meets every invariant and every step keeps each. -/
theorem reachableStatesAreLegal : Obligations.ReachableStatesAreLegal := by
  intro s hs
  induction hs with
  | start requests env =>
    have hhandle : handleWellFormed { State.reset with requests := requests, env := env } = true := by
      show parametersWf defaultCfg defaultParams = true
      decide
    exact ⟨rfl, ⟨rfl, rfl, rfl, rfl, hhandle, rfl⟩, rfl, ⟨hhandle, rfl, .inl rfl⟩, ⟨hhandle, rfl, rfl⟩,
      fun hv => absurd hv Bool.false_ne_true⟩
  | next _ h ih =>
    obtain ⟨hbusy, hlegal, hframed, hsettled, htimed, hmirror⟩ := ih
    obtain ⟨hmirror', hbusy'⟩ := stepKeepsTheWindowMirror _ _ hbusy hmirror h
    exact ⟨hbusy', stepKeepsRegistersLegal _ _ hlegal h, step_keeps_framed hframed h, step_keeps_settled hsettled h,
      step_keeps_timed htimed h, hmirror'⟩

end Sys2Proof.Machine

/-! SUPPORT. The host's write of one FrameBuffer pixel and the window check (spec/20_memory.md R61 to R63, R69, R77). -/

namespace Sys2Proof.Machine

open Sys2Proof

/-! ### The host's write of a pixel -/

/-- Between operations the host writes a pixel the FrameBuffer has (R77). -/
theorem servePixel_idle {s : State} {a : Nat} (hb : s.busy = false) (ha : a < s.fbPixels) (v : Half) :
    servePixel a v s = .next { s with fb := writePixel s.fb a v } := by
  simp [servePixel, hb, ha]

/-- Settles O47: the step is `servePixel`; a read after the write and the canonical form are FB space's own laws. -/
theorem hostWriteChangesOnePixel : Obligations.HostWriteChangesOnePixel := by
  intro s a v rest hr hb ha
  refine ⟨?_, fun b => readPixel_writePixel s.fb a b v, fun hw => writePixel_wf hw a v⟩
  rw [step, hr]
  exact servePixel_idle (s := { s with requests := rest }) hb ha v

/-! ### The window check -/

/-- Window well-formedness (R69), with the extents of the rotation (R63) named. -/
theorem windowWf_iff_of_extents {g : Cfg} {rot : Rotation} {cols rows : Half} (hc : colExtent g rot = cols.toNat)
    (hr : rowExtent g rot = rows.toNat) (w : Window) :
    windowWf g rot w = true ↔ w.xs ≤ w.xe ∧ w.xe < cols ∧ w.ys ≤ w.ye ∧ w.ye < rows := by
  rw [windowWf_iff, hc, hr]
  simp only [BitVec.le_def, BitVec.lt_def]

/-- Outside READY a window passes if some rotation makes it well-formed: 180 and 270 degrees have the extents of 0 and 90
(R63). -/
theorem windowOk_iff_of_not_ready {s : State} (hl : s.life ≠ .ready) (w : Window) :
    windowOk s w = true ↔ ∃ rot, windowWf s.cfg rot w = true := by
  rw [windowOk, if_neg hl, Bool.or_eq_true]
  constructor
  · rintro (h | h)
    · exact ⟨.deg0, h⟩
    · exact ⟨.deg90, h⟩
  · rintro ⟨rot, h⟩
    cases rot
    case deg0 => exact .inl h
    case deg90 => exact .inr h
    case deg180 => exact .inl h
    case deg270 => exact .inr h

/-- An idle handle refuses an operation with ill-formed operands before admission (R69, R243). -/
theorem operation_illFormed {i : Instr} {s : State} (hi : isOperation i = true) (hidle : idle s = true)
    (hwf : operandsOk i s = false) : exec i s = .refused .illFormedWindow := by
  obtain ⟨hn, hb⟩ := idle_iff.mp hidle
  simp [exec_operation hi, issue, hn, hb, hwf]

/-- A range frame of a SET_WINDOW in progress with an ill-formed range (R69). -/
theorem windowFrame_illFormed {i : Instr} {s : State} (hp : inProgress s = true) (hl : s.life = .ready)
    (hi : (∃ a b, i = .colRange a b) ∨ (∃ a b, i = .rowRange a b) ∨ i = .memWrite) (hwf : i.wf s.cfg s.rot = false) :
    exec i s = .refused .illFormedWindow := by
  obtain ⟨hwin, hplace, hframe, -⟩ := windowFrame_place hl hi
  exact frame_illFormed hframe hp hplace (by simp [hwin, hwf])

theorem axisWf_eq_false {a b : Half} {extent : Nat} (h : ¬(a ≤ b ∧ b.toNat < extent)) : axisWf a b extent = false := by
  simpa [axisWf] using h

/-- Settles O43, from the check under each rotation and the two ways an ill-formed window is refused. -/
theorem illFormedWindowIsRefused : Obligations.IllFormedWindowIsRefused := by
  refine ⟨fun g w => ⟨?_, ?_, ?_, ?_⟩, fun s w => ⟨?_, ?_, ?_⟩, fun s a b hp hl => ⟨?_, ?_⟩⟩
  · exact windowWf_iff_of_extents (rot := .deg0) rfl rfl w
  · exact windowWf_iff_of_extents (rot := .deg180) rfl rfl w
  · exact windowWf_iff_of_extents (rot := .deg90) rfl rfl w
  · exact windowWf_iff_of_extents (rot := .deg270) rfl rfl w
  · exact fun hl => windowOk_ready hl w
  · exact fun hl => windowOk_iff_of_not_ready hl w
  · exact fun hidle hw => ⟨operation_illFormed rfl hidle hw, operation_illFormed rfl hidle hw⟩
  · exact fun h => windowFrame_illFormed hp hl (.inl ⟨a, b, rfl⟩) (axisWf_eq_false h)
  · exact fun h => windowFrame_illFormed hp hl (.inr (.inl ⟨a, b, rfl⟩)) (axisWf_eq_false h)

end Sys2Proof.Machine

/-! SUPPORT. Controller-equivalence of a chunked payload (spec/20_memory.md R86, spec/44_pixel_pipeline.md R218). -/

namespace Sys2Proof.Machine

open Sys2Proof

/-- Wires that merge alike still do behind a common beginning. -/
theorem mergeData_append_congr {v v' : Wire} (h : mergeData v = mergeData v') (w : Wire) :
    mergeData (w ++ v) = mergeData (w ++ v') := by
  induction w with
  | nil => exact h
  | cons x w ih =>
    obtain ⟨dc, bs⟩ := x
    cases dc <;> simp only [List.cons_append, mergeData, ih]

/-- Adjacent data-phase transfers merge into one with all their bytes (R86). -/
theorem mergeData_data {bss : List (List Byte)} (h : bss ≠ []) :
    mergeData (bss.map fun bs => (Level.high, bs)) = [(Level.high, bss.flatten)] := by
  induction bss with
  | nil => exact absurd rfl h
  | cons bs bss ih =>
    cases bss with
    | nil => simp [mergeData]
    | cons cs bss =>
      rw [List.map_cons, mergeData, ih (by simp)]
      rfl

/-- A payload within the limit is one chunk, and no other is (R218). -/
theorem chunks_eq_singleton_iff {m : Nat} (hm : 1 ≤ m) {bs : List Byte} (h : bs ≠ []) :
    chunks (some m) bs = [bs] ↔ bs.length ≤ m := by
  have hlen : (chunks (some m) bs).length = (bs.length + m - 1) / m := chunksUpTo_length hm _ _ le_rfl
  have hflat : (chunks (some m) bs).flatten = bs := chunksUpTo_flatten hm _ _ le_rfl
  have hpos : 0 < bs.length := List.length_pos_iff.mpr h
  have hone : (bs.length + m - 1) / m = 1 ↔ bs.length ≤ m := by
    rw [Nat.div_eq_iff (by omega)]
    omega
  constructor
  · intro he
    rw [he] at hlen
    exact hone.mp hlen.symm
  · intro hle
    obtain ⟨c, hc⟩ := List.length_eq_one_iff.mp (hlen.trans (hone.mpr hle))
    rw [hc] at hflat ⊢
    simpa using hflat

/-- Settles O38: merged, the chunks are the payload (`mergeData_data`); unmerged, they are it within the limit only. -/
theorem chunkingIsControllerEquivalent : Obligations.ChunkingIsControllerEquivalent := by
  rintro w _ bs m hbs hm rfl
  have hflat : (chunks (some m) bs).flatten = bs := chunksUpTo_flatten hm _ _ le_rfl
  have hne : chunks (some m) bs ≠ [] := by
    intro he
    rw [he] at hflat
    exact hbs hflat.symm
  constructor
  · refine mergeData_append_congr ?_ w
    rw [mergeData_data hne, hflat]
    rfl
  · have hinj : Function.Injective fun c : List Byte => (Level.high, c) := fun _ _ he => (Prod.mk.inj he).2
    have hsame : (chunks (some m) bs).map (fun c => (Level.high, c)) = [(Level.high, bs)] ↔
        chunks (some m) bs = [bs] := (List.map_injective_iff.mpr hinj).eq_iff (b := [bs])
    rw [Ne, List.append_cancel_left_eq, hsame, chunks_eq_singleton_iff hm hbs, Nat.not_le]

end Sys2Proof.Machine

/-! SUPPORT. SINK's memory over the calls of a FLUSH (spec/20_memory.md R81 to R84): the window frames start a memory write at
the window's first pixel, and the payload's pixels fill the window, each in its place. -/

namespace Sys2Proof.Machine

open Sys2Proof

/-! ### GRAM -/

/-- The GRAM cells of some positions, with their values. -/
def gramCells (value : Nat × Nat → Half) (ps : List (Nat × Nat)) : List ((Nat × Nat) × Half) :=
  ps.map fun p => (p, value p)

/-- Newly written cells hide the older ones at their positions and no others. -/
theorem gramAt_gramCells_append (value : Nat × Nat → Half) (ps : List (Nat × Nat)) (g : List ((Nat × Nat) × Half))
    (c r : Nat) :
    gramAt (gramCells value ps ++ g) c r = if (c, r) ∈ ps then some (value (c, r)) else gramAt g c r := by
  induction ps with
  | nil => rfl
  | cons p ps ih =>
    rw [gramCells, List.map_cons, List.cons_append, gramAt]
    by_cases hp : p = (c, r)
    · simp [hp]
    · rw [if_neg hp, ← gramCells, ih]
      simp [Ne.symm hp]

/-! ### The pixels of a window in their order -/

/-- The column and row of a window's k-th pixel (R216). -/
def windowPosition (w : Window) (k : Nat) : Nat × Nat :=
  (w.xs.toNat + k % windowWidth w, w.ys.toNat + k / windowWidth w)

/-- A FLUSH's k-th pixel is the FrameBuffer's at the k-th position (R62, R216). -/
theorem flushPixel_eq (s : State) (w : Window) (k : Nat) :
    flushPixel s w k =
      readPixel s.fb (pixelAddress s.cfg s.rot (windowPosition w k).1 (windowPosition w k).2) := rfl

/-- The next position: the next column, or the first one of the next row. -/
theorem windowPosition_succ {w : Window} (hx : w.xs.toNat ≤ w.xe.toNat) (k : Nat) :
    windowPosition w (k + 1) =
      (if (windowPosition w k).1 < w.xe.toNat then (windowPosition w k).1 + 1 else w.xs.toNat,
       if (windowPosition w k).1 < w.xe.toNat then (windowPosition w k).2 else (windowPosition w k).2 + 1) := by
  have hpos := windowWidth_pos w
  have hmod := Nat.mod_lt k hpos
  have hwidth : windowWidth w = w.xe.toNat - w.xs.toNat + 1 := rfl
  have hk := Nat.mod_add_div k (windowWidth w)
  by_cases hlt : (windowPosition w k).1 < w.xe.toNat
  · rw [if_pos hlt, if_pos hlt]
    simp only [windowPosition] at hlt ⊢
    have hdm : (k + 1) / windowWidth w = k / windowWidth w ∧ (k + 1) % windowWidth w = k % windowWidth w + 1 :=
      (Nat.div_mod_unique hpos).mpr ⟨by omega, by omega⟩
    rw [hdm.1, hdm.2, Nat.add_assoc]
  · rw [if_neg hlt, if_neg hlt]
    simp only [windowPosition] at hlt ⊢
    have hdm : (k + 1) / windowWidth w = k / windowWidth w + 1 ∧ (k + 1) % windowWidth w = 0 :=
      (Nat.div_mod_unique hpos).mpr ⟨by rw [Nat.mul_add]; omega, hpos⟩
    rw [hdm.1, hdm.2, Nat.add_zero, Nat.add_assoc]

/-- The positions of a window's pixels, the last one first. -/
def windowPositions (w : Window) (n : Nat) : List (Nat × Nat) := (List.range n).reverse.map (windowPosition w)

theorem windowPositions_succ (w : Window) (n : Nat) :
    windowPositions w (n + 1) = windowPosition w n :: windowPositions w n := by
  simp [windowPositions, List.range_succ]

/-- A walk's row has not left the window before its last pixel. -/
theorem windowPosition_row_le {w : Window} (hy : w.ys.toNat ≤ w.ye.toNat) {k : Nat}
    (hk : k < windowWidth w * windowHeight w) : (windowPosition w k).2 ≤ w.ye.toNat := by
  have hrow : k / windowWidth w < windowHeight w := Nat.div_lt_of_lt_mul hk
  simp only [windowPosition, windowHeight] at hrow ⊢
  omega

/-- After its last pixel the walk stands at the first column below the window. -/
theorem windowPosition_end {w : Window} (hy : w.ys.toNat ≤ w.ye.toNat) :
    windowPosition w (windowWidth w * windowHeight w) = (w.xs.toNat, w.ye.toNat + 1) := by
  rw [windowPosition, Nat.mul_mod_right, Nat.mul_div_cancel_left _ (windowWidth_pos w), windowHeight]
  congr 1
  omega

/-- A whole walk visits the window's positions and no others (R216). -/
theorem mem_windowPositions {w : Window} (hx : w.xs.toNat ≤ w.xe.toNat) (hy : w.ys.toNat ≤ w.ye.toNat) (c r : Nat) :
    (c, r) ∈ windowPositions w (windowWidth w * windowHeight w) ↔
      w.xs.toNat ≤ c ∧ c ≤ w.xe.toNat ∧ w.ys.toNat ≤ r ∧ r ≤ w.ye.toNat := by
  have hpos := windowWidth_pos w
  have hwidth : windowWidth w = w.xe.toNat - w.xs.toNat + 1 := rfl
  have hheight : windowHeight w = w.ye.toNat - w.ys.toNat + 1 := rfl
  simp only [windowPositions, List.mem_map, List.mem_reverse, List.mem_range, windowPosition, Prod.mk.injEq]
  constructor
  · rintro ⟨k, hk, rfl, rfl⟩
    have hcol := Nat.mod_lt k hpos
    have hrow : k / windowWidth w < windowHeight w := Nat.div_lt_of_lt_mul hk
    exact ⟨Nat.le_add_right _ _, by omega, Nat.le_add_right _ _, by omega⟩
  · rintro ⟨hc, hc', hr, hr'⟩
    obtain ⟨hdiv, hmod⟩ := (Nat.div_mod_unique (c := c - w.xs.toNat) (d := r - w.ys.toNat) hpos).mpr
      ⟨rfl, by omega⟩
    refine ⟨_, ?_, by rw [hmod]; omega, by rw [hdiv]; omega⟩
    rw [Nat.mul_comm (windowWidth w) (windowHeight w), ← Nat.div_lt_iff_lt_mul hpos, hdiv]
    omega

/-! ### A memory write of a window -/

/-- SINK where a SET_WINDOW of `w` leaves it (R81, R82), but for what its first command byte ended: at the start of a memory
write of a window that is known. -/
def Sink.startWrite (k : Sink) (c : CmdBytes) (w : Window) : Sink :=
  { k with
    sxs := w.xs, sxe := w.xe, sys := w.ys, sye := w.ye, cx := w.xs.toNat, cy := w.ys.toNat
    writing := true, colsSure := true, rowsSure := true, last := some c.memWrite, half := none }

/-- SINK when a memory write that it ends too early is given up (R82, case (i) of R84). -/
def Sink.endWrite (k : Sink) : Sink := if k.writing && !k.complete then k.lose else k

/-- A command byte other than MEM_WRITE's ends a memory write (R82). -/
theorem Sink.takeCommand_other {c : CmdBytes} {b : Byte} (hb : b ≠ c.memWrite) (k : Sink) :
    k.takeCommand c [b] = { k.endWrite with writing := false, last := some b, half := none } := by
  simp [Sink.takeCommand, Sink.endWrite, hb]

/-- Outside a memory write there is none to end. -/
theorem Sink.takeCommand_other_of_notWriting {c : CmdBytes} {b : Byte} (hb : b ≠ c.memWrite) {k : Sink}
    (h : k.writing = false) : k.takeCommand c [b] = { k with last := some b, half := none } := by
  simp [Sink.takeCommand, hb, h]

/-- MEM_WRITE's command byte outside a memory write starts one at the window's first pixel (R82). -/
theorem Sink.takeCommand_memWrite {k : Sink} (h : k.writing = false) (c : CmdBytes) :
    k.takeCommand c [c.memWrite] =
      { k with cx := k.sxs.toNat, cy := k.sys.toNat, writing := true, last := some c.memWrite, half := none } := by
  simp [Sink.takeCommand, h]

/-- A column range inside the controller's memory programs the columns (R81). -/
theorem Sink.takeData_cols_inside {c : CmdBytes} {k : Sink} (hw : k.writing = false) (hl : k.last = some c.colRange)
    {a b : Half} {x : Nat} (hx : axisWf a b x = true) (y : Nat) :
    k.takeData c x y (rangeData a b) = { k with sxs := a, sxe := b, colsSure := true, last := none } := by
  simp [Sink.takeData, hw, hl, rangeData, be16, ofBe16_be16, Sink.checkAxis, hx]

/-- A row range inside the controller's memory programs the rows (R81). -/
theorem Sink.takeData_rows_inside {c : CmdBytes} {k : Sink} (hw : k.writing = false) (hl : k.last = some c.rowRange)
    (hne : c.rowRange ≠ c.colRange) {a b : Half} {y : Nat} (hy : axisWf a b y = true) (x : Nat) :
    k.takeData c x y (rangeData a b) = { k with sys := a, sye := b, rowsSure := true, last := none } := by
  simp [Sink.takeData, hw, hl, hne, rangeData, be16, ofBe16_be16, Sink.checkAxis, hy]

/-- SINK over the calls of a SET_WINDOW whose window is inside the controller's memory (R81, R82). -/
theorem Sink.feedAll_setWindow_inside {c : CmdBytes} (hc : cmdWf c = true) {x y : Nat} {w : Window}
    (hx : axisWf w.xs w.xe x = true) (hy : axisWf w.ys w.ye y = true) (k : Sink) :
    k.feedAll c x y (okEntries (setWindowCalls c w)) = k.endWrite.startWrite c w := by
  have h1 : c.colRange ≠ c.memWrite := cmdOf_ne (k := .colRange) (l := .memWrite) hc (by decide)
  have h2 : c.rowRange ≠ c.memWrite := cmdOf_ne (k := .rowRange) (l := .memWrite) hc (by decide)
  have h3 : c.rowRange ≠ c.colRange := cmdOf_ne (k := .rowRange) (l := .colRange) hc (by decide)
  rw [setWindowCalls_eq]
  show ((((k.takeCommand c [c.colRange]).takeData c x y (rangeData w.xs w.xe)).takeCommand c
    [c.rowRange]).takeData c x y (rangeData w.ys w.ye)).takeCommand c [c.memWrite] = _
  rw [Sink.takeCommand_other h1, Sink.takeData_cols_inside rfl rfl hx,
    Sink.takeCommand_other_of_notWriting h2 rfl, Sink.takeData_rows_inside rfl rfl h3 hy, Sink.takeCommand_memWrite rfl]
  rfl

/-- SINK after the first `n` pixels of a memory write of `w`. -/
def Sink.afterPixels (k : Sink) (w : Window) (value : Nat × Nat → Half) (n : Nat) : Sink :=
  { k with
    cx := (windowPosition w n).1
    cy := (windowPosition w n).2
    gram := gramCells value (windowPositions w n) ++ k.gram }

/-- The two bytes of a pixel, when none is pending, are that pixel (R83). -/
theorem Sink.takeBytes_be16 {k : Sink} (h : k.half = none) (v : Half) :
    (be16 v).foldl Sink.takeByte k = { k with half := some (hi8 v) }.takePixel (hi8 v) (lo8 v) := by
  simp [be16, Sink.takeByte, h]

/-- The pixels of a window, in its order, are written each at its position (R83). -/
theorem Sink.takeBytes_pixels {w : Window} (hx : w.xs.toNat ≤ w.xe.toNat) (hy : w.ys.toNat ≤ w.ye.toNat) (c : CmdBytes)
    (k : Sink) (value : Nat × Nat → Half) {n : Nat} (hn : n ≤ windowWidth w * windowHeight w) :
    ((List.range n).flatMap fun j => be16 (value (windowPosition w j))).foldl Sink.takeByte (k.startWrite c w) =
      (k.startWrite c w).afterPixels w value n := by
  induction n with
  | zero => simp [Sink.afterPixels, Sink.startWrite, windowPosition, windowPositions, gramCells]
  | succ n ih =>
    rw [List.range_succ, List.flatMap_append, List.foldl_append, ih (by omega), List.flatMap_singleton,
      Sink.takeBytes_be16 rfl, Sink.takePixel_inside rfl (windowPosition_row_le hy (by omega)), ofBe16_be16,
      Sink.afterPixels, Sink.afterPixels, windowPosition_succ hx, windowPositions_succ]
    rfl

/-- Transfers of a memory write are its bytes, across transfer boundaries (R83). -/
theorem Sink.feedAll_data (c : CmdBytes) (x y : Nat) {k : Sink} (hw : k.writing = true) (bss : List (List Byte)) :
    k.feedAll c x y (okEntries (bss.map (.busXfer .high))) = bss.flatten.foldl Sink.takeByte k := by
  induction bss generalizing k with
  | nil => rfl
  | cons bs bss ih =>
    have hbs : k.takeData c x y bs = bs.foldl Sink.takeByte k := if_pos hw
    rw [List.flatten_cons, List.foldl_append, ← hbs]
    exact ih (Sink.takeData_writing hw c x y bs).2

/-- SINK over the calls of a FLUSH whose window is well-formed (R215): the window's pixels are the FrameBuffer's. -/
theorem Sink.feedAll_flush {s : State} (hn : noMeaning s = none) {w : Window} (hw : windowWf s.cfg s.rot w = true)
    (k : Sink) :
    k.feedAll s.par.cmd (colExtent s.cfg s.rot) (rowExtent s.cfg s.rot) (okEntries (flushCalls s w)) =
      (k.endWrite.startWrite s.par.cmd w).afterPixels w (fun p => readPixel s.fb (pixelAddress s.cfg s.rot p.1 p.2))
        (windowWidth w * windowHeight w) := by
  obtain ⟨hx, -, hy, -⟩ := windowWf_iff.mp hw
  obtain ⟨hcols, hrows⟩ := (Bool.and_eq_true _ _).mp hw
  have hdata := Sink.feedAll_data s.par.cmd (colExtent s.cfg s.rot) (rowExtent s.cfg s.rot)
    (k := k.endWrite.startWrite s.par.cmd w) rfl (chunks s.cfg.maxXfer (flushPayload s w))
  rw [chunks_flatten (maxXfer_pos hn)] at hdata
  rw [flushCalls, okEntries_append, Sink.feedAll_append,
    Sink.feedAll_setWindow_inside (cmdWf_of_hasMeaning hn) hcols hrows]
  refine hdata.trans ?_
  exact Sink.takeBytes_pixels hx hy s.par.cmd k.endWrite
    (fun p => readPixel s.fb (pixelAddress s.cfg s.rot p.1 p.2)) le_rfl

/-- A memory write of a whole window is complete (R84, case (i), does not arise). -/
theorem Sink.afterPixels_complete {w : Window} (hy : w.ys.toNat ≤ w.ye.toNat) (c : CmdBytes) (k : Sink)
    (value : Nat × Nat → Half) :
    ((k.startWrite c w).afterPixels w value (windowWidth w * windowHeight w)).complete = true := by
  simp [Sink.complete, Sink.afterPixels, Sink.startWrite, windowPosition_end hy]

/-- Settles O39: the FLUSH's calls leave SINK after the pixels of the whole window. -/
theorem flushFillsTheSink : Obligations.FlushFillsTheSink := by
  rintro s t w k _ h herr rfl
  obtain ⟨hidle, -, hw, -, hentries, -⟩ := flush_returned h herr
  obtain ⟨hx, -, hy, -⟩ := windowWf_iff.mp hw
  rw [hentries, Sink.feedAll_flush (idle_iff.mp hidle).1 hw]
  refine ⟨fun c r hc hc' hr hr' => ?_, fun hknown hopen => ⟨?_, fun c r hout => ?_⟩, ?_⟩
  · rw [Sink.afterPixels, gramAt_gramCells_append, if_pos ((mem_windowPositions hx hy c r).mpr ⟨hc, hc', hr, hr'⟩)]
    rfl
  · rw [Sink.endWrite, hopen]
    exact hknown
  · rw [Sink.endWrite, hopen, Sink.afterPixels, gramAt_gramCells_append,
      if_neg (mt (mem_windowPositions hx hy c r).mp hout)]
    rfl
  · rw [Sink.afterPixels_complete hy, Bool.not_true, Bool.and_false]

end Sys2Proof.Machine

/-! SUPPORT. Descriptors (spec/30_encoding.md R90 to R92, R98, R100): the operand codes, windows and ranges are read back from
their bytes and only from those, at the level of the host operations and at the level of the frames. -/

namespace Sys2Proof.Machine

open Sys2Proof

/-! ### Operands -/

@[simp] theorem rotationOfCode_rotationCode (r : Rotation) : rotationOfCode (rotationCode r) = some r := by
  cases r <;> decide

@[simp] theorem orderOfCode_orderCode (o : ColorOrder) : orderOfCode (orderCode o) = some o := by
  cases o <;> decide

/-- A rotation has one code (R92). -/
theorem rotationCode_of_rotationOfCode {b : Byte} {r : Rotation} (h : rotationOfCode b = some r) : rotationCode r = b := by
  unfold rotationOfCode at h
  split_ifs at h with h0 h1 h2 h3 <;> cases h
  exacts [h0.symm, h1.symm, h2.symm, h3.symm]

/-- A colour order has one code (R92). -/
theorem orderCode_of_orderOfCode {b : Byte} {o : ColorOrder} (h : orderOfCode b = some o) : orderCode o = b := by
  unfold orderOfCode at h
  split_ifs at h with h0 h1 <;> cases h
  exacts [h0.symm, h1.symm]

@[simp] theorem decodeWindow_encodeWindow (w : Window) : decodeWindow (encodeWindow w) = some w := by
  simp [encodeWindow, be16, decodeWindow, ofBe16_be16]

/-- A window has one spelling (R92). -/
theorem encodeWindow_of_decodeWindow {bs : List Byte} {w : Window} (h : decodeWindow bs = some w) : encodeWindow w = bs := by
  unfold decodeWindow at h
  split at h
  · cases h
    simp [encodeWindow, be16_ofBe16]
  · cases h

/-- The operands of INITIALIZE have one spelling (R92). -/
theorem decodeInitialize_eq_ok {ops : List Byte} {i : Instr} :
    decodeInitialize ops = .ok i → ∃ rot order, ops = [rotationCode rot, orderCode order] ∧ i = .init rot order := by
  fun_cases decodeInitialize ops with
  | case3 r o rot order ho hr =>
    rintro ⟨⟩
    exact ⟨rot, order, by rw [rotationCode_of_rotationOfCode hr, orderCode_of_orderOfCode ho], rfl⟩
  | _ => exact nofun

/-! ### Host operations -/

/-- A descriptor of a host operation is that operation's encoding: the selector, then the operands (R91). -/
theorem encode_of_decodeHostOp (c : CmdBytes) {bytes : List Byte} {i : Instr} :
    decodeHostOp bytes = .ok i → encode c i = .host bytes := by
  have selector : ∀ {sel : Byte} {n : Nat}, sel.toNat = n → sel = BitVec.ofNat 8 n := by
    rintro sel _ rfl
    rw [BitVec.ofNat_toNat, BitVec.setWidth_eq]
  fun_cases decodeHostOp bytes with
  | case3 sel hsel =>
    rintro ⟨⟩
    rw [selector hsel, encode]
  | case5 sel ops hsel =>
    intro h
    obtain ⟨rot, order, rfl, rfl⟩ := decodeInitialize_eq_ok h
    rw [selector hsel, encode]
  | case6 sel ops hsel w hw =>
    rintro ⟨⟩
    rw [selector hsel, encode, encodeWindow_of_decodeWindow hw]
  | case8 sel ops hsel w hw =>
    rintro ⟨⟩
    rw [selector hsel, encode, encodeWindow_of_decodeWindow hw]
  | case11 sel hsel cmd data =>
    rintro ⟨⟩
    rw [selector hsel, encode]
  | _ => exact nofun

/-- A host operation decodes from its encoding, whatever the command bytes. -/
theorem decode_encode_operation (c : CmdBytes) {i : Instr} (hi : isOperation i = true) : decode c (encode c i) = .ok i := by
  cases i with
  | hwReset => rfl
  | init rot order => simp [encode, decode, decodeHostOp, decodeInitialize]
  | flush w => simp [encode, decode, decodeHostOp]
  | setWindow w => simp [encode, decode, decodeHostOp]
  | send cmd data => rfl
  | _ => cases hi

/-- R100: the selectors without an operation are reserved, whatever follows them. -/
theorem decodeHostOp_reserved {sel : Byte} (h : sel = 0#8 ∨ sel = 6#8 ∨ sel = 7#8) (ops : List Byte) :
    decodeHostOp (sel :: ops) = .error .reservedSelector := by
  obtain rfl | rfl | rfl := h <;> rfl

/-! ### Frames -/

/-- The operand bytes of a frame: a range frame's two ends (R201, R202), and none of any other. -/
def frameOperands : Instr → List Byte
  | .colRange a b | .rowRange a b => rangeData a b
  | _ => []

theorem encode_frame (c : CmdBytes) {i : Instr} (hi : isOperation i = false) :
    encode c i = .frame (cmdOf c (kindOf i) :: frameOperands i) := by
  cases i with
  | hwReset | init | flush | setWindow | send => cases hi
  | _ => rfl

theorem withRange_rangeData (f : Half → Half → Instr) (a b : Half) : withRange f (rangeData a b) = some (f a b) := by
  simp [rangeData, be16, withRange, ofBe16_be16]

theorem frameInstr_frameOperands {i : Instr} (hi : isOperation i = false) :
    frameInstr (kindOf i) (frameOperands i) = some i := by
  cases i with
  | hwReset | init | flush | setWindow | send => cases hi
  | colRange xs xe => exact withRange_rangeData _ xs xe
  | rowRange ys ye => exact withRange_rangeData _ ys ye
  | _ => rfl

theorem withoutOperands_eq_some {i j : Instr} {ops : List Byte} (h : withoutOperands i ops = some j) :
    ops = [] ∧ j = i := by
  cases ops with
  | nil => exact ⟨rfl, (Option.some.inj h).symm⟩
  | cons => cases h

theorem withRange_eq_some {f : Half → Half → Instr} {ops : List Byte} {j : Instr} (h : withRange f ops = some j) :
    ∃ a b, ops = rangeData a b ∧ j = f a b := by
  unfold withRange at h
  split at h
  · cases h
    exact ⟨_, _, by simp [rangeData, be16_ofBe16], rfl⟩
  · cases h

/-- A frame's operands have one spelling, and its instruction tells its kind. -/
theorem frameInstr_eq_some {k : FrameKind} {ops : List Byte} {i : Instr} (h : frameInstr k ops = some i) :
    isOperation i = false ∧ kindOf i = k ∧ frameOperands i = ops := by
  cases k with
  | colRange | rowRange =>
    obtain ⟨a, b, rfl, rfl⟩ := withRange_eq_some h
    exact ⟨rfl, rfl, rfl⟩
  | _ =>
    obtain ⟨rfl, rfl⟩ := withoutOperands_eq_some h
    exact ⟨rfl, rfl, rfl⟩

/-- The frame descriptors that name an instruction: a command byte, then the kind's operands (R98). -/
theorem decodeFrame_cons_eq_ok_iff {c : CmdBytes} {b : Byte} {ops : List Byte} {i : Instr} :
    decodeFrame c (b :: ops) = .ok i ↔ ∃ k, kindOfCmd c b = some k ∧ frameInstr k ops = some i := by
  rw [decodeFrame]
  cases hk : kindOfCmd c b with
  | none => simp
  | some k => cases hf : frameInstr k ops <;> simp [hf]

/-- A frame decodes from its encoding, because its command byte tells its kind (R98). -/
theorem decode_encode_frame {c : CmdBytes} (hc : cmdWf c = true) {i : Instr} (hi : isOperation i = false) :
    decode c (encode c i) = .ok i := by
  rw [encode_frame c hi]
  exact decodeFrame_cons_eq_ok_iff.mpr ⟨kindOf i, kindOfCmd_cmdOf hc _, frameInstr_frameOperands hi⟩

/-- A descriptor of a frame is that frame's encoding. -/
theorem encode_of_decodeFrame {c : CmdBytes} {bytes : List Byte} {i : Instr} (h : decodeFrame c bytes = .ok i) :
    encode c i = .frame bytes := by
  cases bytes with
  | nil => cases h
  | cons b ops =>
    obtain ⟨k, hk, hi⟩ := decodeFrame_cons_eq_ok_iff.mp h
    obtain ⟨hframe, rfl, rfl⟩ := frameInstr_eq_some hi
    rw [encode_frame c hframe, kindOfCmd_some hk]

/-! ### Both levels -/

/-- Settles O1: a host operation has its selector, and a frame's command byte is no other kind's. -/
theorem decodeInvertsEncode : Obligations.DecodeInvertsEncode := by
  intro c i hc
  cases hi : isOperation i with
  | true => exact decode_encode_operation c hi
  | false => exact decode_encode_frame hc hi

/-- Settles O2: on each level the operands that decode are the bytes the encoder writes. -/
theorem encodeInvertsDecode : Obligations.EncodeInvertsDecode := by
  intro c d i h
  cases d with
  | host bytes => exact encode_of_decodeHostOp c h
  | frame bytes => exact encode_of_decodeFrame h

end Sys2Proof.Machine

/-! SUPPORT. Frames on the wire (spec/30_encoding.md R93, R103): a frame's transfers, split where the next one begins. -/

namespace Sys2Proof.Machine

open Sys2Proof

theorem wireBytes_frameWire (f : Frame) : wireBytes (frameWire f) = f.cmd :: f.data := by
  by_cases h : f.data = [] <;> simp [wireBytes, frameWire, h]

/-- A frame's wire form begins a frame, and the data before the next command byte is added to it (R103). -/
theorem splitFrames_frameWire_append (f : Frame) (w : Wire) :
    splitFrames (frameWire f ++ w) = (splitFrames w).map fun x => ([], ⟨f.cmd, f.data ++ x.1⟩ :: x.2) := by
  by_cases h : f.data = []
  · simp [frameWire, h, splitFrames]
  · simp [frameWire, h, splitFrames, Function.comp_def]

theorem splitFrames_flatMap_frameWire (fs : List Frame) : splitFrames (fs.flatMap frameWire) = some ([], fs) := by
  induction fs with
  | nil => rfl
  | cons f fs ih => simp [splitFrames_frameWire_append, ih]

theorem splitFrames_data (parts : List (List Byte)) :
    splitFrames (parts.map fun bs => (Level.high, bs)) = some (parts.flatten, []) := by
  induction parts with
  | nil => rfl
  | cons bs parts ih => simp [splitFrames, ih]

/-- Settles O6: each frame is split off the front of the wire in turn (`splitFrames_frameWire_append`). -/
theorem framesAreRecoveredFromTheWire : Obligations.FramesAreRecoveredFromTheWire := by
  refine ⟨fun f => ⟨fun h => ?_, fun h => ?_, ?_⟩, fun fs => ?_, fun cmd parts => ?_⟩
  · simp [frameWire, h]
  · simp [frameWire, h]
  · rw [wireBytes_frameWire, List.length_cons, Nat.add_comm]
  · rw [framesOfWire, splitFrames_flatMap_frameWire]
  · rw [framesOfWire, splitFrames_frameWire_append, splitFrames_data]
    simp

end Sys2Proof.Machine

/-! SUPPORT. The bytes of a 16-bit value (spec/30_encoding.md R95, R96). -/

namespace Sys2Proof.Machine

open Sys2Proof

theorem hi8_toNat (v : Half) : (hi8 v).toNat = v.toNat / 256 := by
  rw [hi8, BitVec.extractLsb'_toNat, Nat.shiftRight_eq_div_pow]
  exact Nat.mod_eq_of_lt (by omega)

theorem lo8_toNat (v : Half) : (lo8 v).toNat = v.toNat % 256 := by
  rw [lo8, BitVec.extractLsb'_toNat, Nat.shiftRight_zero]

/-- Settles O5: the halves are the quotient and the remainder by 256. -/
theorem halvesAreBigEndian : Obligations.HalvesAreBigEndian := by
  refine ⟨fun v => ⟨rfl, rfl, rfl, hi8_toNat v, lo8_toNat v, ?_, ofBe16_be16 v⟩, fun a b => rfl, by decide, by decide⟩
  rw [hi8_toNat, lo8_toNat]
  exact (Nat.div_add_mod' _ _).symm

end Sys2Proof.Machine

/-! SUPPORT. A step serves the descriptor at the head of the host's requests (spec/30_encoding.md R100, R101,
spec/60_exceptions.md R257). -/

namespace Sys2Proof.Machine

open Sys2Proof

theorem step_idle {s : State} (h : s.requests = []) : step s = .next s := by
  rw [step, h]

section

variable {s : State} {rest : List Request} {d : Descriptor}

theorem step_descriptor (h : s.requests = requestOf d :: rest) :
    step s = serveDescriptor d { s with requests := rest } := by
  rw [step, h]
  cases d <;> rfl

theorem step_decoded {i : Instr} (h : s.requests = requestOf d :: rest) (hd : decode s.par.cmd d = .ok i) :
    step s = exec i { s with requests := rest } := by
  rw [step_descriptor h, serveDescriptor, hd]

theorem step_illegal {why : DecodeError} (h : s.requests = requestOf d :: rest)
    (hd : decode s.par.cmd d = .error why) : step s = .refused (.illegalDescriptor why) := by
  rw [step_descriptor h, serveDescriptor, hd]

end

/-- Settles O4: no operand makes a reserved selector legal (`decodeHostOp_reserved`). -/
theorem reservedSelectorsAreRefused : Obligations.ReservedSelectorsAreRefused := fun _ sel ops _ h hsel =>
  step_illegal (d := .host (sel :: ops)) h (decodeHostOp_reserved hsel ops)

/-- Settles O8: `step_decoded` and `step_illegal` on both levels, and O1 for the encoding of an instruction. -/
theorem stepRunsTheDecodedInstruction : Obligations.StepRunsTheDecodedInstruction := fun s _ bytes i _ =>
  ⟨step_idle, step_decoded (d := .host bytes), step_decoded (d := .frame bytes), step_illegal (d := .host bytes),
    step_illegal (d := .frame bytes), fun h hc => step_decoded h (decodeInvertsEncode s.par.cmd i hc)⟩

end Sys2Proof.Machine

/-! SUPPORT. Bus Transport (spec/40_bus_transport.md): the framing invariant, SEND run alone, whether it returns Ok or
aborts, and what an error leaves (spec/60_exceptions.md R241, R245, R258). -/

namespace Sys2Proof.Machine

open Sys2Proof

/-- Settles O54: an instruction's calls up to any one of them are well framed, and no other step makes a call. -/
theorem stepKeepsFraming : Obligations.StepKeepsFraming := fun _ _ => step_keeps_framed

/-! ### One frame -/

theorem frameCalls_eq_ite (cmd : Byte) (data : List Byte) :
    frameCalls ⟨cmd, data⟩ =
      if data = [] then [.gpioDc .low, .busXfer .low [cmd]]
      else [.gpioDc .low, .busXfer .low [cmd], .gpioDc .high, .busXfer .high data] := by
  by_cases h : data = [] <;> simp [frameCalls, h]

theorem frameCalls_length (cmd : Byte) (data : List Byte) :
    (frameCalls ⟨cmd, data⟩).length = if data = [] then 2 else 4 := by
  rw [frameCalls_eq_ite]
  split <;> rfl

/-- A frame neither drives the reset line nor waits. -/
theorem frameCalls_quiet {f : Frame} {e : Event} (h : e ∈ frameCalls f) :
    (∀ l, e ≠ .gpioRst l) ∧ (∀ ms, e ≠ .sleep ms) := by
  rcases mem_frameCalls h with ⟨l, rfl⟩ | ⟨l, bs, rfl⟩ <;> simp

/-- A frame up to its n-th call (from 0): the last level driven, the transfers made, that call's error (R123, R124). -/
theorem frameCalls_until {cmd : Byte} {data : List Byte} {n : Nat} (hn : n < (frameCalls ⟨cmd, data⟩).length)
    (dc : Level) (k : Nat) :
    levelAfter dc ((frameCalls ⟨cmd, data⟩).take n) = (if n = 0 then dc else if n = 3 then .high else .low) ∧
      transfersIn ((frameCalls ⟨cmd, data⟩).take n) = (if n ≤ 1 then 0 else 1) ∧
      errorFor k (failingCall (frameCalls ⟨cmd, data⟩) n) =
        if n = 0 ∨ n = 2 then .sequenceError .gpioDc else .busError k := by
  rw [frameCalls_length] at hn
  rw [frameCalls_eq_ite]
  split at hn
  · next h => rw [if_pos h]; interval_cases n <;> exact ⟨rfl, rfl, rfl⟩
  · next h => rw [if_neg h]; interval_cases n <;> exact ⟨rfl, rfl, rfl⟩

/-- A frame whose calls answered `ok` (R120 to R122): the data phase only if there is data (R127). -/
theorem finished_sendActions (cmd : Byte) (data : List Byte) (s : State) :
    finished (sendActions cmd data) s = { s with
      dc := if data = [] then .low else .high
      xfers := s.xfers + if data = [] then 1 else 2
      trace := s.trace ++ okEntries (frameCalls ⟨cmd, data⟩)
      env := s.env.drop (frameCalls ⟨cmd, data⟩).length } := by
  have hdc : levelAfter s.dc (frameCalls ⟨cmd, data⟩) = if data = [] then .low else .high := by
    rw [frameCalls_eq_ite]; split <;> rfl
  have hxfers : transfersIn (frameCalls ⟨cmd, data⟩) = if data = [] then 1 else 2 := by
    rw [frameCalls_eq_ite]; split <;> rfl
  have hcalls := sendActions_calls cmd data
  simp only [finished, callsFrom_sendActions, hdc, hxfers, winFrom_calls hcalls, winValidFrom_calls hcalls,
    stepFrom_calls hcalls, pixelsFrom_calls hcalls, resetLineAfter_of_none fun e he => (frameCalls_quiet he).1,
    elapsed_of_none fun e he => (frameCalls_quiet he).2, Nat.add_zero]

/-- A frame whose n-th call (from 0) failed (R123, R124). -/
theorem stopped_sendActions {cmd : Byte} {data : List Byte} {n : Nat} (hn : n < (frameCalls ⟨cmd, data⟩).length)
    (s : State) :
    stopped (sendActions cmd data) n s = { s with
      dc := if n = 0 then s.dc else if n = 3 then .high else .low
      xfers := s.xfers + if n ≤ 1 then 0 else 1
      trace := s.trace ++ traceToFailure (frameCalls ⟨cmd, data⟩) n
      env := s.env.drop (n + 1) } := by
  obtain ⟨hdc, hxfers, -⟩ := frameCalls_until hn s.dc 0
  have hcalls : ∀ a ∈ untilCall n (sendActions cmd data), isCall a = true := fun a ha =>
    sendActions_calls cmd data a (mem_untilCall ha)
  have hquiet : ∀ e ∈ (frameCalls ⟨cmd, data⟩).take n, (∀ l, e ≠ .gpioRst l) ∧ (∀ ms, e ≠ .sleep ms) :=
    fun e he => frameCalls_quiet (List.mem_of_mem_take he)
  simp only [stopped, callsFrom_sendActions, hdc, hxfers, winFrom_calls hcalls, winValidFrom_calls hcalls,
    stepFrom_calls hcalls, pixelsFrom_calls hcalls, resetLineAfter_of_none fun e he => (hquiet e he).1,
    elapsed_of_none fun e he => (hquiet e he).2, Nat.add_zero]

/-! ### SEND run alone -/

/-- Where SEND is admitted (Table 60-C). -/
theorem admitted_send {l : Life} (h : l = .resetDone ∨ l = .ready) : admitted .send l = true := by
  rcases h with rfl | rfl <;> rfl

/-- `cmd` and `data` are not interpreted (R129). -/
theorem operandsOk_send (cmd : Byte) (data : List Byte) (s : State) : operandsOk (.send cmd data) s = true :=
  operandsOk_of_wf fun _ => rfl

/-- Settles O24, from what a whole frame does (`finished_sendActions`). -/
theorem sendCompletes : Obligations.SendCompletes := by
  intro s cmd data hidle hlife hok
  have hcalls := callsOf_send cmd data s
  have hbusy := (idle_iff.mp hidle).2
  rw [exec_finished rfl hidle (operandsOk_send cmd data s) (admitted_send hlife) rfl
    (by rwa [hcalls, frameCalls_length])]
  rw [programOf, finished_sendActions, startOf_xfers, Nat.zero_add, frameCalls_length, frameCalls_eq_ite, hbusy]
  rfl

/-- Settles O25, from what a frame does up to its failing call (`stopped_sendActions`). -/
theorem sendAborts : Obligations.SendAborts := by
  intro s cmd data n hidle hlife hlt hfail
  have hcalls := callsOf_send cmd data s
  have hbusy := (idle_iff.mp hidle).2
  have hn : n < (frameCalls ⟨cmd, data⟩).length := by rwa [frameCalls_length]
  have herr : errorFor (transfersIn ((frameCalls ⟨cmd, data⟩).take n)) (failingCall (frameCalls ⟨cmd, data⟩) n) =
      if n = 0 ∨ n = 2 then .sequenceError .gpioDc else if n = 1 then .busError 0 else .busError 1 := by
    obtain ⟨-, hxfers, herror⟩ := frameCalls_until hn s.dc (if n ≤ 1 then 0 else 1)
    have hlt4 : n < 4 := by split at hlt <;> omega
    rw [hxfers, herror]
    interval_cases n <;> rfl
  rw [exec_stopped rfl hidle (operandsOk_send cmd data s) (admitted_send hlife) rfl (by rwa [hcalls]) hfail]
  rw [hcalls, herr, programOf, stopped_sendActions hn, startOf_xfers, Nat.zero_add, hbusy]
  rfl

/-! ### What an error leaves -/

/-- What an instruction that stopped at a failing call leaves (R241, R245); an operation's XFERS starts at 0 (R34). -/
theorem aborted_status {i : Instr} {s t : State} {n : Nat}
    (hop : isOperation i = true →
      t = takeAbort (opOf i) (errorFor (transfersIn ((instrCalls i s).take n)) (failingCall (instrCalls i s) n))
        (stopped (programOf i s) n (startOf i s)))
    (hframe : isOperation i = false →
      t = takeAbort (frameOpOf i s)
        (errorFor (s.xfers + transfersIn ((instrCalls i s).take n)) (failingCall (instrCalls i s) n))
        (stopped (frameProgram i s) n s)) :
    t.err = errorFor t.xfers (failingCall (instrCalls i s) n) ∧
      t.xfers = (if isOperation i then 0 else s.xfers) + transfersIn ((instrCalls i s).take n) ∧
      t.busy = false ∧ t.winValid = false := by
  cases hi : isOperation i with
  | true =>
    have hx : t.xfers = transfersIn ((instrCalls i s).take n) := by
      rw [hop hi, takeAbort_xfers, instrCalls, if_pos hi]
      simp only [stopped, startOf_dc, startOf_xfers, Nat.zero_add]
      rfl
    rw [if_pos rfl, Nat.zero_add, hx, hop hi]
    exact ⟨rfl, rfl, rfl, rfl⟩
  | false =>
    have hx : t.xfers = s.xfers + transfersIn ((instrCalls i s).take n) := by
      rw [hframe hi, takeAbort_xfers, instrCalls, if_neg (by simp [hi])]
      rfl
    rw [if_neg Bool.false_ne_true, hx, hframe hi]
    exact ⟨rfl, rfl, rfl, rfl⟩

/-- What a failed transfer may have delivered (R125). -/
theorem mayHaveDelivered_failed (dc : Level) (bs received : List Byte) :
    mayHaveDelivered ⟨.busXfer dc bs, false⟩ received = true ↔ ∃ rest, bs = received ++ rest := by
  simp only [mayHaveDelivered, Bool.false_eq_true, if_false, List.isPrefixOf_iff_prefix, List.IsPrefix,
    eq_comm (b := bs)]

theorem mayHaveDelivered_ok (dc : Level) (bs received : List Byte) :
    mayHaveDelivered ⟨.busXfer dc bs, true⟩ received = true ↔ received = bs := by
  simp only [mayHaveDelivered, if_true, beq_iff_eq]

/-- Settles O40, over the three ways an instruction answers a next state (`exec_ran`): rejected, through, or aborted. -/
theorem errorsArePrecise : Obligations.ErrorsArePrecise := by
  refine ⟨fun s t i h => ?_,
    fun dc bs received => ⟨mayHaveDelivered_failed dc bs received, mayHaveDelivered_ok dc bs received⟩⟩
  rcases exec_ran h with ⟨-, -, rfl, -⟩ | ⟨hran, -, hop, hframe⟩ | ⟨n, -, -, hran, hop, hframe⟩
  · exact .inl ⟨[], by simp, .inr (.inl ⟨rfl, rfl⟩)⟩
  · refine .inl ⟨instrCalls i s, by simpa using hran.trace, ?_⟩
    cases hi : isOperation i with
    | true => exact .inl (by rw [(hop hi).2.2, returnOk_err])
    | false => exact .inr (.inr ⟨rfl, by rw [(hframe hi).2]; rfl⟩)
  · exact .inr ⟨_, _, hran.trace, aborted_status (fun hi => (hop hi).2.2) (fun hi => (hframe hi).2)⟩

end Sys2Proof.Machine

/-! SUPPORT. The Reset Sequencer (spec/41_reset_sequencer.md): the settle-wait invariant (R145), HW_RESET when its calls
answer `ok` and when one fails (R140 to R143), and the order and the waits of its calls (R144). -/

namespace Sys2Proof.Machine

open Sys2Proof

/-- Settles O55 (`step_keeps_settled`): HW_RESET sends no byte and ends with the wait over, or in UNRESET, from where no
other instruction sends one. -/
theorem stepKeepsTransfersSettled : Obligations.StepKeepsTransfersSettled := fun _ _ => step_keeps_settled

/-! ### HW_RESET as a program -/

/-- HW_RESET's program when its calls answered `ok`: the line ends released (R141). -/
theorem finished_hwResetActions (d : Delays) (s : State) :
    finished (hwResetActions d) s = { s with
      rst := .deassert
      now := s.now + elapsed (hwResetCalls d) s.env
      trace := s.trace ++ okEntries (hwResetCalls d)
      env := s.env.drop 5 } := rfl

section

variable {n : Nat} (hn : n < 5)

include hn

/-- HW_RESET's program when its n-th call (from 0) failed: the line stands where the last drive before it left it. -/
theorem stopped_hwResetActions (d : Delays) (s : State) :
    stopped (hwResetActions d) n s = { s with
      rst := resetLineAfter s.rst ((hwResetCalls d).take n)
      now := s.now + elapsed ((hwResetCalls d).take n) s.env
      trace := s.trace ++ traceToFailure (hwResetCalls d) n
      env := s.env.drop (n + 1) } := by
  interval_cases n <;> rfl

/-- Calls 0 and 2 of HW_RESET drive the line, the others are waits (R142). -/
theorem errorFor_failingCall_hwReset (d : Delays) (k : Nat) :
    errorFor k (failingCall (hwResetCalls d) n) =
      if n = 0 ∨ n = 2 then .sequenceError .gpioRst else .sequenceError .delay := by
  interval_cases n <;> rfl

end

/-! ### HW_RESET -/

/-- HW_RESET's registers on entry (R140). -/
theorem startOf_hwReset (s : State) :
    startOf .hwReset s = { s with winValid := false, life := .unreset, busy := true, xfers := 0 } := rfl

/-- HW_RESET has no operands, so they pass every check. -/
theorem operandsOk_hwReset (s : State) : operandsOk .hwReset s = true := operandsOk_of_wf fun _ => rfl

/-- Settles O10, from what the five calls do (`finished_hwResetActions`); NOW advances by what they ask for at least. -/
theorem hwResetCompletes : Obligations.HwResetCompletes := by
  intro s hidle hok
  have hbusy := (idle_iff.mp hidle).2
  constructor
  · rw [exec_finished rfl hidle (operandsOk_hwReset s) rfl rfl hok]
    rw [programOf, finished_hwResetActions, startOf_hwReset, hbusy]
    rfl
  · rw [← sleptMs_hwReset]
    exact sleptMs_le_elapsed _ _

/-- In UNRESET only HW_RESET is admitted (Table 60-C). -/
theorem admitted_unreset {op : HostOp} (hop : op ≠ .hwReset) : admitted op .unreset = false := by
  cases op
  case hwReset => exact absurd rfl hop
  all_goals rfl

/-- A HW_RESET that does not return Ok leaves UNRESET (R142). -/
theorem hwReset_failed_life {s t : State} (h : exec .hwReset s = .next t) (he : t.err ≠ .ok) : t.life = .unreset := by
  rcases operation_status rfl h with ⟨ha, -⟩ | ⟨-, hok, -⟩ | ⟨-, -, -, hlife, -⟩
  · cases ha
  · exact absurd hok he
  · exact hlife

/-- Settles O11: `stopped_hwResetActions` up to the failing call, and UNRESET admits nothing else afterwards. -/
theorem hwResetAborts : Obligations.HwResetAborts := by
  refine ⟨fun s n hidle hn hfail => ?_, fun s t i h herr hi hne hwf => ?_⟩
  · have hbusy := (idle_iff.mp hidle).2
    rw [exec_stopped rfl hidle (operandsOk_hwReset s) rfl rfl hn hfail]
    rw [callsOf_hwReset, errorFor_failingCall_hwReset hn, programOf, stopped_hwResetActions hn, startOf_hwReset, hbusy]
    rfl
  · refine exec_rejected hi (idle_after rfl h) hwf ?_
    rw [hwReset_failed_life h herr]
    exact admitted_unreset (opOf_ne_hwReset hi hne)

/-- A HW_RESET that returned Ok made its five calls, all answering `ok`. -/
theorem hwReset_returned {s t : State} (h : exec .hwReset s = .next t) (he : t.err = .ok) :
    newEntries s t = okEntries (hwResetCalls s.par.delays) := by
  rcases exec_ran h with ⟨-, ha, -⟩ | ⟨hran, -⟩ | ⟨n, -, -, -, hop, -⟩
  · cases ha
  · rw [hran.newEntries]
    rfl
  · obtain ⟨-, -, ht⟩ := hop rfl
    rw [ht] at he
    exact absurd he (errorFor_ne _ _).1

/-- Settles O12: the release stands after the first two of the five calls, and the delays have their bounds (R141). -/
theorem hwResetLineOrderAndWaits : Obligations.HwResetLineOrderAndWaits := by
  intro s t h he
  obtain ⟨hassert, hhold, hsettle, -⟩ := delays_of_hasMeaning (exec_hasMeaning h)
  have hafter : sleptMs (okEntries [.sleep s.par.delays.rstHold, .sleep s.par.delays.rstSettle]) =
      s.par.delays.rstHold + s.par.delays.rstSettle := rfl
  refine ⟨okEntries [.gpioRst .assert, .sleep s.par.delays.rstAssert],
    okEntries [.sleep s.par.delays.rstHold, .sleep s.par.delays.rstSettle], ?_, rfl, rfl, hafter, ?_, ?_⟩
  · rw [hwReset_returned h he]
    rfl
  · rw [hafter]
    omega
  · rw [hwReset_returned h he, sleptMs_hwReset]
    omega

end Sys2Proof.Machine

/-! SUPPORT. The orientation byte (spec/42_initializer.md R156, R157): which masks stand in it, and that it
tells the rotation and the colour order. -/

namespace Sys2Proof.Machine

open Sys2Proof

/-- The masks of exactly one bit. -/
def singleBits : List Byte := (List.range 8).map fun k => 1#8 <<< k

theorem singleBit_iff {b : Byte} : singleBit b = true ↔ b ∈ singleBits := List.contains_iff_mem

/-- Two different single-bit masks share no bit. -/
theorem singleBit_disjoint {a b : Byte} (ha : singleBit a = true) (hb : singleBit b = true) (hab : a ≠ b) :
    a &&& b = 0#8 := by
  have hall : ∀ x ∈ singleBits, ∀ y ∈ singleBits, x ≠ y → x &&& y = 0#8 := by decide
  exact hall a (singleBit_iff.mp ha) b (singleBit_iff.mp hb) hab

theorem singleBit_ne_zero {b : Byte} (h : singleBit b = true) : b ≠ 0#8 := by
  rintro rfl
  cases h

/-- Whether the column-mirror flag MX is set under a rotation (Table 42-B). -/
def columnsMirrored : Rotation → Bool
  | .deg0 | .deg90 => true
  | .deg180 | .deg270 => false

/-- MX and MV tell the rotation (Table 42-B). -/
theorem rotation_eq_of_flags {r q : Rotation} (hx : columnsMirrored r = columnsMirrored q)
    (hv : axesSwapped r = axesSwapped q) : r = q := by
  revert hx hv
  cases r <;> cases q <;> decide

theorem colorOrder_eq_of_rgb {o p : ColorOrder} (h : decide (o = .rgb) = decide (p = .rgb)) : o = p := by
  revert h
  cases o <;> cases p <;> decide

/-- Which of two values a nonzero mask contributes tells whether it is there. -/
theorem mask_present_inj {m : Byte} (hm : m ≠ 0#8) {b c : Bool}
    (h : (if b then m else 0#8) = if c then m else 0#8) : b = c := by
  cases b <;> cases c
  · rfl
  · exact absurd h.symm hm
  · exact absurd h hm
  · rfl

theorem rotationBits_eq (m : Masks) (r : Rotation) : rotationBits m r = orientationByte m r .bgr := by
  simp [orientationByte, orderBits]

section

variable {m : Masks} (hm : masksWf m = true)

include hm

/-- No two of the four masks share a bit. -/
theorem masks_disjoint : [m.mx, m.my, m.mv, m.rgb].Pairwise fun a b => a &&& b = 0#8 := by
  simp only [masksWf, Bool.and_eq_true, decide_eq_true_eq] at hm
  obtain ⟨⟨⟨⟨hx, hy⟩, hv⟩, hg⟩, hnodup⟩ := hm
  have hsingle : ∀ a ∈ [m.mx, m.my, m.mv, m.rgb], singleBit a = true := by simp [hx, hy, hv, hg]
  exact hnodup.imp_of_mem fun ha hb hab => singleBit_disjoint (hsingle _ ha) (hsingle _ hb) hab

/-- What stands in the orientation byte of each of the masks that tell the rotation and the order. -/
theorem orientationByte_and_mask (r : Rotation) (o : ColorOrder) :
    orientationByte m r o &&& m.mx = (if columnsMirrored r then m.mx else 0#8) ∧
      orientationByte m r o &&& m.mv = (if axesSwapped r then m.mv else 0#8) ∧
      orientationByte m r o &&& m.rgb = (if decide (o = .rgb) then m.rgb else 0#8) := by
  have hdisjoint := masks_disjoint hm
  simp only [List.pairwise_cons, List.mem_cons, List.not_mem_nil, or_false, forall_eq_or_imp, forall_eq] at hdisjoint
  obtain ⟨⟨hxy, hxv, hxg⟩, ⟨hyv, hyg⟩, hvg, -⟩ := hdisjoint
  have hyx := (BitVec.and_comm m.my m.mx).trans hxy
  have hvx := (BitVec.and_comm m.mv m.mx).trans hxv
  have hgx := (BitVec.and_comm m.rgb m.mx).trans hxg
  have hgv := (BitVec.and_comm m.rgb m.mv).trans hvg
  cases r <;> cases o <;>
    simp [orientationByte, rotationBits, orderBits, columnsMirrored, axesSwapped, BitVec.and_or_distrib_right, hyx, hvx,
      hgx, hxv, hyv, hgv, hxg, hyg, hvg]

theorem masks_ne_zero : m.mx ≠ 0#8 ∧ m.mv ≠ 0#8 ∧ m.rgb ≠ 0#8 := by
  simp only [masksWf, Bool.and_eq_true] at hm
  obtain ⟨⟨⟨⟨hx, -⟩, hv⟩, hg⟩, -⟩ := hm
  exact ⟨singleBit_ne_zero hx, singleBit_ne_zero hv, singleBit_ne_zero hg⟩

/-- The eight orientation bytes are pairwise different (R157). -/
theorem orientationByte_inj {r q : Rotation} {o p : ColorOrder} (h : orientationByte m r o = orientationByte m q p) :
    r = q ∧ o = p := by
  obtain ⟨hx, hv, hg⟩ := orientationByte_and_mask hm r o
  obtain ⟨hx', hv', hg'⟩ := orientationByte_and_mask hm q p
  obtain ⟨nx, nv, ng⟩ := masks_ne_zero hm
  rw [h] at hx hv hg
  exact ⟨rotation_eq_of_flags (mask_present_inj nx (hx.symm.trans hx')) (mask_present_inj nv (hv.symm.trans hv')),
    colorOrder_eq_of_rgb (mask_present_inj ng (hg.symm.trans hg'))⟩

end

/-- The orientation byte has no bit outside the four masks (R157). -/
theorem orientationByte_within_masks (m : Masks) (r : Rotation) (o : ColorOrder) :
    orientationByte m r o &&& ~~~(m.mx ||| m.my ||| m.mv ||| m.rgb) = 0#8 := by
  ext k
  cases r <;> cases o <;> simp [orientationByte, rotationBits, orderBits] <;> grind

/-- Settles O7: the masks in the byte tell it apart (`orientationByte_inj`); the rotation bits are the bytes for BGR. -/
theorem orientationByteIsInjective : Obligations.OrientationByteIsInjective := by
  refine ⟨fun m hm => ⟨rfl, rfl, rfl, rfl, fun r q h => ?_, fun r o => ?_, fun r o q p => orientationByte_inj hm,
    orientationByte_within_masks m⟩, by decide⟩
  · rw [rotationBits_eq, rotationBits_eq] at h
    exact (orientationByte_inj hm h).1
  · cases o <;> rfl

end Sys2Proof.Machine

/-! SUPPORT. The slots of INIT_TABLE (spec/42_initializer.md R159 to R176, R183): what each does in its place, when its
calls answer `ok` and when one fails, and where a frame kind is refused. -/

namespace Sys2Proof.Machine

open Sys2Proof

/-! ### A slot as a program -/

theorem levelAfter_append (l : Level) (es fs : List Event) :
    levelAfter l (es ++ fs) = levelAfter (levelAfter l es) fs := List.foldl_append

/-- A frame leaves DC where its last phase drove it (R120, R127). -/
theorem levelAfter_frameCalls (l : Level) (f : Frame) :
    levelAfter l (frameCalls f) = if f.data = [] then .low else .high := by
  rw [frameCalls_eq_ite]
  split <;> rfl

/-- A post-delay leaves DC alone. -/
theorem levelAfter_slotCalls (l : Level) (x : SlotCase) :
    levelAfter l x.calls = if x.frame.data = [] then .low else .high := by
  rw [SlotCase.calls, levelAfter_append, levelAfter_frameCalls]
  by_cases hd : x.delay = 0
  · rw [if_pos hd]; rfl
  · rw [if_neg hd]; rfl

theorem transfersIn_append (es fs : List Event) : transfersIn (es ++ fs) = transfersIn es + transfersIn fs :=
  List.countP_append

/-- A slot makes one transfer, or two where its frame has data. -/
theorem transfersIn_slotCalls (x : SlotCase) : transfersIn x.calls = if x.frame.data = [] then 1 else 2 := by
  have hframe : transfersIn (frameCalls x.frame) = if x.frame.data = [] then 1 else 2 := by
    rw [frameCalls_eq_ite]
    split <;> rfl
  rw [SlotCase.calls, transfersIn_append, hframe]
  by_cases hd : x.delay = 0
  · rw [if_pos hd]; rfl
  · rw [if_neg hd]; rfl

/-- The calls of a row without data that has a delay. -/
theorem slotCalls_delayed {x : SlotCase} (hdata : x.frame.data = []) (hdelay : x.delay ≠ 0) :
    x.calls = [.gpioDc .low, .busXfer .low [x.frame.cmd], .sleep x.delay] := by
  rw [SlotCase.calls, frameCalls, if_pos hdata, if_neg hdelay]
  rfl

section

variable {p : Params} {rot : Rotation} {order : ColorOrder} {x : SlotCase} (hx : x ∈ slotCases p rot order)

include hx

/-- The calls of a row of Table 42-A are those of its slot's turn of the loop. -/
theorem callsFrom_slot (dc : Level) : callsFrom dc (slotActions p x.slot) = x.calls := by
  rw [← (slotCase_fields hx).1]
  exact callsFrom_slotCase dc hx

/-- A slot's turn of the loop whose calls answered `ok` (R155). -/
theorem finished_slot (s : State) :
    finished (slotActions p x.slot) s = { s with
      win := winFrom s.win (mirrorActions p (kindOf x.instr))
      winValid := winValidFrom s.winValid (mirrorActions p (kindOf x.instr))
      step := s.step + 1#5
      dc := if x.frame.data = [] then .low else .high
      xfers := s.xfers + if x.frame.data = [] then 1 else 2
      now := s.now + elapsed x.calls s.env
      trace := s.trace ++ okEntries x.calls
      env := s.env.drop x.calls.length } := by
  simp only [finished, callsFrom_slot hx, levelAfter_slotCalls, transfersIn_slotCalls,
    resetLineAfter_of_none fun e he => slotCalls_noReset he, winFrom_slotActions, winValidFrom_slotActions,
    slotActions_step, pixelsFrom_slotActions]
  rfl

/-- A slot's turn of the loop whose n-th call (from 0) failed: its mirror and its STEP are not written. -/
theorem stopped_slot {n : Nat} (hn : n < x.calls.length) (s : State) :
    stopped (slotActions p x.slot) n s = { s with
      dc := levelAfter s.dc (x.calls.take n)
      xfers := s.xfers + transfersIn (x.calls.take n)
      now := s.now + elapsed (x.calls.take n) s.env
      trace := s.trace ++ traceToFailure x.calls n
      env := s.env.drop (n + 1) } := by
  have hquiet := untilCall_slot_quiet hx hn
  simp only [stopped, callsFrom_slot hx,
    resetLineAfter_of_none fun e he => slotCalls_noReset (List.mem_of_mem_take he), winFrom_calls hquiet,
    winValidFrom_calls hquiet, stepFrom_calls hquiet, pixelsFrom_calls hquiet]

/-- Slots 0 to 13 have no delay and no mirror (R159 to R172). -/
theorem slot_plain (hnum : x.number ≤ 13) : x.delay = 0 ∧ mirrorActions p (kindOf x.instr) = [] := by
  revert x
  simp [slotCases, kindOf, mirrorActions]

/-- Slots 16 and 17 have no data and no mirror (R175, R176). -/
theorem slot_bare (hnum : 16 ≤ x.number) : x.frame.data = [] ∧ mirrorActions p (kindOf x.instr) = [] := by
  revert x
  simp [slotCases, kindOf, mirrorActions]

/-- Each gamma table has 16 bytes (R169, R170). -/
theorem slot_gamma_length (hp : payloadWf p.payload = true) (hlo : 10 ≤ x.number) (hhi : x.number ≤ 11) :
    x.frame.data.length = 16 := by
  simp only [payloadWf, Bool.and_eq_true, decide_eq_true_eq] at hp
  revert x
  simp [slotCases, hp]

/-- Slot 13 carries the orientation byte (R172). -/
theorem slot_orientation_data (hnum : x.number = 13) : x.frame.data = [orientationByte p.masks rot order] := by
  revert x
  simp [slotCases]

end

/-! ### A slot in its place -/

section

variable {s : State} {x : SlotCase} (hx : x ∈ slotCases s.par s.rot s.cord) (hp : inProgress s = true)
  (hl : s.life = .resetDone) (hstep : s.step.toNat = x.number)

include hx hp hl hstep

omit hp in
/-- A slot in its place is its turn of the loop, run as a frame of the INITIALIZE in progress (R183). -/
theorem exec_slot : exec x.instr s = runFrame .init true true (slotActions s.par x.slot) s := by
  obtain ⟨hw, hprog, hop, hplace⟩ := slotCase_place hx hl
  obtain ⟨-, -, -, hframe, -⟩ := slotCase_fields hx
  rw [exec_frame hframe, hprog, hop, hplace, decide_eq_true hstep, hw]
  rfl

/-- A slot in its place whose calls answer `ok`. -/
theorem exec_slot_finished (hok : answersOk x.calls.length s = true) :
    exec x.instr s = .next (finished (slotActions s.par x.slot) s) := by
  rw [exec_slot hx hl hstep, runFrame_inPlace hp rfl rfl, runActions_finished (by rwa [callsFrom_slot hx])]

/-- A slot in its place whose n-th call (from 0) fails. -/
theorem exec_slot_stopped {n : Nat} (hn : n < x.calls.length) (hf : failsAfter n s = true) :
    exec x.instr s =
      .next (takeAbort .init (errorFor (s.xfers + transfersIn (x.calls.take n)) (failingCall x.calls n))
        (stopped (slotActions s.par x.slot) n s)) := by
  rw [exec_slot hx hl hstep, runFrame_inPlace hp rfl rfl, runActions_stopped (by rwa [callsFrom_slot hx]) hf,
    callsFrom_slot hx]

/-- Slots 0 to 13 complete with their frame sent and STEP one further (R159 to R172). -/
theorem exec_plain_slot (hnum : x.number ≤ 13) (hok : answersOk (frameCalls x.frame).length s = true) :
    exec x.instr s = .next { s with
      dc := if x.frame.data = [] then .low else .high
      xfers := s.xfers + (if x.frame.data = [] then 1 else 2)
      step := s.step + 1#5
      trace := s.trace ++ okEntries (frameCalls x.frame)
      env := s.env.drop (frameCalls x.frame).length } := by
  obtain ⟨hdelay, hmirror⟩ := slot_plain hx hnum
  have hcalls : x.calls = frameCalls x.frame := by rw [SlotCase.calls, if_pos hdelay, List.append_nil]
  rw [exec_slot_finished hx hp hl hstep (by rwa [hcalls]), finished_slot hx, hmirror, hcalls,
    elapsed_of_none fun e he => (frameCalls_quiet he).2]
  rfl

/-- Slots 16 and 17 complete with their command sent, their delay waited and STEP one further (R175, R176). -/
theorem exec_delayed_slot (hnum : 16 ≤ x.number) (hdelay : x.delay ≠ 0) (hok : answersOk 3 s = true) :
    exec x.instr s = .next { s with
      dc := .low
      xfers := s.xfers + 1
      step := s.step + 1#5
      now := s.now + x.delay + (s.env.getD 2 (.ok 0)).overshoot
      trace := s.trace ++ okEntries [.gpioDc .low, .busXfer .low [x.frame.cmd], .sleep x.delay]
      env := s.env.drop 3 } := by
  obtain ⟨hdata, hmirror⟩ := slot_bare hx hnum
  have hcalls := slotCalls_delayed hdata hdelay
  have helapsed : elapsed x.calls s.env = x.delay + (s.env.getD 2 (.ok 0)).overshoot := by
    simp [hcalls, elapsed, List.headD_eq_head?_getD]
  rw [exec_slot_finished hx hp hl hstep (by rwa [hcalls]), finished_slot hx, hmirror, helapsed, hcalls, if_pos hdata,
    if_pos hdata, Nat.add_assoc]
  rfl

end

/-- Settles O17: `exec_plain_slot`, and no row up to slot 13 has a delay. -/
theorem frameRateToVcomSlotsComplete : Obligations.FrameRateToVcomSlotsComplete := by
  intro s x hx hnum hp hl hstep hok
  have hnum' : x.number ≤ 13 := by omega
  exact ⟨(slot_plain hx hnum').1, exec_plain_slot hx hp hl hstep hnum' hok⟩

/-- Settles O18: `exec_plain_slot`, with the lengths of the gamma tables from the parameters' well-formedness. -/
theorem gammaToOrientationSlotsComplete : Obligations.GammaToOrientationSlotsComplete := by
  intro s x hx hlo hhi hp hl hstep hok
  have hpayload : payloadWf s.par.payload = true := by
    have hwf := (noMeaning_eq_none.mp (inProgress_iff.mp hp).1).2
    simp only [parametersWf, Bool.and_eq_true] at hwf
    exact hwf.1.2
  exact ⟨(slot_plain hx hhi).1, slot_gamma_length hx hpayload hlo, slot_orientation_data hx,
    exec_plain_slot hx hp hl hstep hhi hok⟩

/-- Settles O19: the two rows of the pre-seed, whose mirrors write their axis of WIN and, after slot 15, WIN_VALID. -/
theorem preseedSlotsComplete : Obligations.PreseedSlotsComplete := by
  intro s hp hl hok
  refine ⟨fun hstep => ?_, fun hstep => ?_⟩
  · have hx : (⟨.colRange s.par.preseed.xs s.par.preseed.xe, 14, ⟨s.par.cmd.colRange,
        be16 s.par.preseed.xs ++ be16 s.par.preseed.xe⟩, 0⟩ : SlotCase) ∈ slotCases s.par s.rot s.cord := by
      simp [slotCases]
    rw [exec_slot_finished hx hp hl (by rw [hstep]; rfl) hok, finished_slot hx, hstep]
    rfl
  · have hx : (⟨.rowRange s.par.preseed.ys s.par.preseed.ye, 15, ⟨s.par.cmd.rowRange,
        be16 s.par.preseed.ys ++ be16 s.par.preseed.ye⟩, 0⟩ : SlotCase) ∈ slotCases s.par s.rot s.cord := by
      simp [slotCases]
    rw [exec_slot_finished hx hp hl (by rw [hstep]; rfl) hok, finished_slot hx, hstep]
    rfl

/-- Settles O20: the last two rows, whose delays have the bounds of Table 70-A. -/
theorem sleepExitAndDisplayOnComplete : Obligations.SleepExitAndDisplayOnComplete := by
  intro s hp hl hok
  obtain ⟨-, -, -, hexit, hon⟩ := delays_of_hasMeaning (inProgress_iff.mp hp).1
  refine ⟨fun hstep => ⟨hexit, ?_⟩, fun hstep => ⟨hon, ?_⟩⟩
  · have hx : (⟨.sleepExit, 16, ⟨s.par.cmd.sleepExit, []⟩, s.par.delays.sleepExit⟩ : SlotCase) ∈
        slotCases s.par s.rot s.cord := by simp [slotCases]
    rw [exec_delayed_slot hx hp hl (by rw [hstep]; rfl) le_rfl (by dsimp only; omega) hok, hstep]
    rfl
  · have hx : (⟨.displayOn, 17, ⟨s.par.cmd.displayOn, []⟩, s.par.delays.displayOn⟩ : SlotCase) ∈
        slotCases s.par s.rot s.cord := by simp [slotCases]
    rw [exec_delayed_slot hx hp hl (by rw [hstep]; rfl) (Nat.le_succ 16) (by dsimp only; omega) hok, hstep]
    rfl

/-- Settles O21, from what a slot does up to its failing call (`stopped_slot`). -/
theorem slotsAbortTheirInitialize : Obligations.SlotsAbortTheirInitialize := by
  intro s x n hx hp hl hstep hn hf
  rw [exec_slot_stopped hx hp hl hstep hn hf, stopped_slot hx hn]
  rfl

/-! ### Frames out of their place -/

/-- In an INITIALIZE in progress MEM_WRITE never runs (R183): it belongs to SET_WINDOW. -/
theorem placeOf_memWrite {s : State} (hl : s.life ≠ .ready) : placeOf .memWrite s = false :=
  decide_eq_false hl

/-- In an INITIALIZE in progress a range frame runs with the pre-seed operands only (R173, R174). -/
theorem placeOf_preseed {i : Instr} {s : State} (hw : inWindow i s = false) (hpre : preseedOperands i s = false) :
    placeOf i s = false := by
  rw [placeOf, hw, if_neg Bool.false_ne_true, hpre, Bool.and_false]

/-- Outside an INITIALIZE and a SET_WINDOW no frame is in its place. -/
theorem placeOf_eq_false {i : Instr} {s : State} (hready : s.life ≠ .ready) (hreset : s.life ≠ .resetDone) :
    placeOf i s = false := by
  rw [Bool.eq_false_iff]
  intro hplace
  have hlife := life_of_place hplace
  split at hlife
  · exact hready hlife
  · exact hreset hlife

/-- In a SET_WINDOW a frame that is not one of its three is not in its place. -/
theorem placeOf_slot_ready {i : Instr} {s : State} (hw : inWindow i s = false) (hl : s.life = .ready) :
    placeOf i s = false := by
  rw [Bool.eq_false_iff]
  intro hplace
  have hlife := life_of_place hplace
  rw [hw, hl] at hlife
  cases hlife

/-- The frames that belong to SET_WINDOW are three. -/
theorem inWindow_eq_false {i : Instr} (hcol : ∀ a b, i ≠ .colRange a b) (hrow : ∀ a b, i ≠ .rowRange a b)
    (hmem : i ≠ .memWrite) (s : State) : inWindow i s = false := by
  cases i
  case colRange a b => exact absurd rfl (hcol a b)
  case rowRange a b => exact absurd rfl (hrow a b)
  case memWrite => exact absurd rfl hmem
  all_goals rfl

/-- A frame of an operation in progress that is not in its place (R183). -/
theorem frame_outOfPlace {i : Instr} {s : State} (hi : isOperation i = false) (hp : inProgress s = true)
    (hplace : placeOf i s = false) : exec i s = .refused .frameNotIssuableAlone :=
  frame_misplaced hi (inProgress_iff.mp hp).1 (by rw [hplace, Bool.and_false])

/-- Settles O22: in each clause either no operation is in progress or the frame is not in its place. -/
theorem framesAreNotIssuableAlone : Obligations.FramesAreNotIssuableAlone := by
  refine ⟨fun s i hidle hi => ?_, fun s x hx hp hl hne => ?_, fun s i hp hl hi => ?_,
    fun s a b hp hl => ⟨?_, ?_, ?_⟩, fun s i hp hl hi hcol hrow hmem => ?_⟩
  · obtain ⟨hn, hb⟩ := idle_iff.mp hidle
    exact frame_misplaced hi hn (by rw [hb, Bool.false_and])
  · obtain ⟨-, -, -, hi, -⟩ := slotCase_fields hx
    obtain ⟨-, -, -, hplace⟩ := slotCase_place hx hl
    exact frame_outOfPlace hi hp (by rw [hplace, decide_eq_false hne])
  · have hlife : s.life ≠ .ready ∧ s.life ≠ .resetDone := by rcases hl with hl | hl <;> simp [hl]
    exact frame_outOfPlace hi hp (placeOf_eq_false hlife.1 hlife.2)
  · exact frame_outOfPlace rfl hp (placeOf_memWrite (by rw [hl]; decide))
  · intro hne
    refine frame_outOfPlace rfl hp (placeOf_preseed (by simp [inWindow, hl]) ?_)
    simpa [preseedOperands, imp_iff_not_or] using hne
  · intro hne
    refine frame_outOfPlace rfl hp (placeOf_preseed (by simp [inWindow, hl]) ?_)
    simpa [preseedOperands, imp_iff_not_or] using hne
  · exact frame_outOfPlace hi hp (placeOf_slot_ready (inWindow_eq_false hcol hrow hmem s) hl)

end Sys2Proof.Machine

/-! SUPPORT. INITIALIZE (spec/42_initializer.md R155, R177 to R181): as its slots run in order, when its calls answer `ok`,
when one fails, and the wire of one that returned Ok. -/

namespace Sys2Proof.Machine

open Sys2Proof

/-! ### INITIALIZE as its slots -/

/-- The end of an INITIALIZE whose slots were run as frames (R155): READY, unless a slot aborted it. -/
def closeInit (t : State) : Out :=
  if t.busy then .next { t with life := .ready, busy := false, err := .ok } else .next t

/-- Row k of Table 42-A is slot k. -/
theorem slotCase_number {p : Params} {rot : Rotation} {order : ColorOrder} {k : Nat}
    (hk : k < (slotCases p rot order).length) : (slotCases p rot order)[k].number = k := by
  have hnumbers : (slotCases p rot order).map SlotCase.number = List.range 18 := rfl
  have hget := List.getElem_map SlotCase.number (l := slotCases p rot order) (i := k) (h := by simpa using hk)
  rw [← hget]
  simp only [hnumbers, List.getElem_range]

/-- From STEP = k on, the slots run as frames are INITIALIZE's program from slot k on (R181, R183). -/
theorem runFrames_slots (n k : Nat) (s : State) (hk : k + n = 18) (hp : inProgress s = true)
    (hl : s.life = .resetDone) (hs : s.step.toNat = k) :
    outThen (runFrames (((slotCases s.par s.rot s.cord).drop k).map SlotCase.instr) s) closeInit =
      conclude .init
        (runActions ((((slotCases s.par s.rot s.cord).drop k).map SlotCase.slot).flatMap (slotActions s.par)) s) := by
  induction n generalizing k s with
  | zero =>
    have hnil : (slotCases s.par s.rot s.cord).drop k = [] := by
      rw [List.drop_eq_nil_iff, slotCases_length]; omega
    rw [hnil]
    show closeInit s = .next (returnOk .init s)
    rw [closeInit, if_pos (inProgress_iff.mp hp).2]
    rfl
  | succ n ih =>
    have hlt : k < (slotCases s.par s.rot s.cord).length := by rw [slotCases_length]; omega
    have hx := List.getElem_mem hlt
    have hexec := exec_slot hx hl (hs.trans (slotCase_number hlt).symm)
    rw [runFrame_inPlace hp rfl rfl] at hexec
    rw [List.drop_eq_getElem_cons hlt, List.map_cons, List.map_cons, List.flatMap_cons, runActions_append, runFrames,
      hexec]
    generalize hsl : (slotCases s.par s.rot s.cord)[k].slot = sl
    rcases runActions_total (slotActions s.par sl) s with ⟨-, h⟩ | ⟨m, -, -, h⟩ | ⟨h, -⟩
    · have hstep : (finished (slotActions s.par sl) s).step.toNat = k + 1 := by
        show (stepFrom s.step (slotActions s.par sl)).toNat = k + 1
        rw [slotActions_step, BitVec.toNat_add, hs]
        exact Nat.mod_eq_of_lt (show k + 1 < 32 by omega)
      have hrest := ih (k + 1) (finished (slotActions s.par sl) s) (by omega) hp hl hstep
      rw [h, Progress.andThen_through]
      show outThen (if s.busy then runFrames _ _ else _) closeInit = _
      rw [if_pos (inProgress_iff.mp hp).2]
      exact hrest
    · rw [h]; rfl
    · rw [h]; rfl

theorem admitted_init_resetDone {s : State} (hl : s.life = .resetDone) : admitted .init s.life = true := by rw [hl]; rfl

/-- INITIALIZE's operands are all well-formed (R101). -/
theorem operandsOk_init (rot : Rotation) (order : ColorOrder) (s : State) : operandsOk (.init rot order) s = true :=
  operandsOk_of_wf fun _ => rfl

/-- An admitted operation is its program from its entry. -/
theorem exec_admitted {i : Instr} {s : State} (hi : isOperation i = true) (hidle : idle s = true)
    (hwf : operandsOk i s = true) (ha : admitted (opOf i) s.life = true) (hp : premiseOf i s = none) :
    exec i s = conclude (opOf i) (runActions (programOf i s) (startOf i s)) := by
  rw [exec_operation hi, hp, issue_admitted hidle hwf ha, programOf_enter]
  rfl

/-- Settles O23: both sides are INITIALIZE's program from its entry (`runFrames_slots` from STEP = 0). -/
theorem initializeIsItsSlotsInOrder : Obligations.InitializeIsItsSlotsInOrder := by
  intro s rot order hidle hl
  have hn := (idle_iff.mp hidle).1
  have hentry : inProgress (startOf (.init rot order) s) = true := inProgress_iff.mpr ⟨hn, rfl⟩
  rw [exec_admitted rfl hidle (operandsOk_init rot order s) (admitted_init_resetDone hl) rfl]
  exact (runFrames_slots 18 0 (startOf (.init rot order) s) rfl hentry hl rfl).symm

/-! ### INITIALIZE as a program -/

/-- INITIALIZE does not drive the reset line. -/
theorem initCalls_noReset {p : Params} {rot : Rotation} {order : ColorOrder} {e : Event}
    (h : e ∈ initCalls p rot order) (l : ResetLevel) : e ≠ .gpioRst l := by
  obtain ⟨x, -, hx⟩ := List.mem_flatMap.mp h
  exact slotCalls_noReset hx l

/-- INITIALIZE ends with DC = LOW: its last slot is a command without data (R176). -/
theorem levelAfter_initCalls (l : Level) (p : Params) (rot : Rotation) (order : ColorOrder) :
    levelAfter l (initCalls p rot order) = .low := by
  have hlast : slotCases p rot order = (slotCases p rot order).take 17 ++
      [⟨.displayOn, 17, ⟨p.cmd.displayOn, []⟩, p.delays.displayOn⟩] := rfl
  rw [initCalls, hlast, List.flatMap_append, levelAfter_append, List.flatMap_singleton, levelAfter_slotCalls, if_pos rfl]

theorem pixelsFrom_initActions (p : Params) (rot : Rotation) (order : ColorOrder) (fb : Memory)
    (x : List Byte × Nat) : pixelsFrom fb x (initActions p rot order) = x := by
  rw [initActions, ← slotCases_slot, pixelsFrom_slots]

/-- INITIALIZE's program from STEP = 0, its calls answering `ok`. -/
theorem finished_initActions {s : State} (hs : s.step = 0#5) (p : Params) (rot : Rotation) (order : ColorOrder) :
    finished (initActions p rot order) s = { s with
      win := p.preseed
      winValid := true
      step := 18#5
      dc := .low
      xfers := s.xfers + transfersIn (initCalls p rot order)
      now := s.now + elapsed (initCalls p rot order) s.env
      trace := s.trace ++ okEntries (initCalls p rot order)
      env := s.env.drop (initCalls p rot order).length } := by
  simp only [finished, callsFrom_initActions, levelAfter_initCalls,
    resetLineAfter_of_none fun e he => initCalls_noReset he, winFrom_initActions, winValidFrom_slots, hs,
    stepFrom_initActions, pixelsFrom_initActions]

section

variable {p : Params} {rot : Rotation} {order : ColorOrder} {n : Nat} (hn : n < (initCalls p rot order).length)

include hn

/-- INITIALIZE up to its n-th call: the slots before the one that call belongs to, and calls of that slot. -/
theorem untilCall_init :
    ∃ part, (∀ a ∈ part, isCall a = true) ∧
      untilCall n (initActions p rot order) =
        (((slotCases p rot order).take (rowOfCall (slotCases p rot order) n)).map SlotCase.slot).flatMap
          (slotActions p) ++ part := by
  obtain ⟨x, m, hx, hm, hu⟩ :=
    untilCall_rows n (slotCases p rot order) (fun y hy => (slotCase_fields hy).2.1) hn
  exact ⟨untilCall m (slotActions p x.slot), untilCall_slot_quiet (List.mem_of_getElem? hx) hm,
    by rw [initActions, ← slotCases_slot, hu]⟩

/-- WIN is written as far as the pre-seed slots before the failing one go (R178). -/
theorem winFrom_init_until (w : Window) :
    winFrom w (untilCall n (initActions p rot order)) =
      if rowOfCall (slotCases p rot order) n ≤ 14 then w
      else if rowOfCall (slotCases p rot order) n = 15 then { w with xs := p.preseed.xs, xe := p.preseed.xe }
      else p.preseed := by
  obtain ⟨part, hcalls, hu⟩ := untilCall_init hn
  rw [hu, winFrom_append, winFrom_calls hcalls, winFrom_slots]
  have := rowOfCall_lt (slotCases p rot order) n hn
  rw [slotCases_length] at this
  exact this.le

/-- STEP is the slot the failing call belongs to (R178). -/
theorem stepFrom_init_until_eq :
    stepFrom 0#5 (untilCall n (initActions p rot order)) = BitVec.ofNat 5 (rowOfCall (slotCases p rot order) n) := by
  obtain ⟨part, hcalls, hu⟩ := untilCall_init hn
  have := rowOfCall_lt (slotCases p rot order) n hn
  rw [hu, stepFrom_append, stepFrom_calls hcalls, stepFrom_slots, List.length_take, Nat.min_eq_left this.le,
    BitVec.zero_add]

theorem pixelsFrom_init_until (fb : Memory) (x : List Byte × Nat) :
    pixelsFrom fb x (untilCall n (initActions p rot order)) = x := by
  obtain ⟨part, hcalls, hu⟩ := untilCall_init hn
  rw [hu, pixelsFrom_append, pixelsFrom_calls hcalls, pixelsFrom_slots]

/-- INITIALIZE's program from STEP = 0, its n-th call (from 0) failing, after the abort (R178, R245). -/
theorem takeAbort_stopped_initActions {s : State} (hs : s.step = 0#5) (e : Result) :
    takeAbort .init e (stopped (initActions p rot order) n s) = { s with
      win :=
        if rowOfCall (slotCases p rot order) n ≤ 14 then s.win
        else if rowOfCall (slotCases p rot order) n = 15 then
          { s.win with xs := p.preseed.xs, xe := p.preseed.xe }
        else p.preseed
      winValid := false
      step := BitVec.ofNat 5 (rowOfCall (slotCases p rot order) n)
      dc := levelAfter s.dc ((initCalls p rot order).take n)
      xfers := s.xfers + transfersIn ((initCalls p rot order).take n)
      life := .failed
      busy := false
      err := e
      now := s.now + elapsed ((initCalls p rot order).take n) s.env
      trace := s.trace ++ traceToFailure (initCalls p rot order) n
      env := s.env.drop (n + 1) } := by
  simp only [stopped, callsFrom_initActions,
    resetLineAfter_of_none fun e he => initCalls_noReset (List.mem_of_mem_take he), winFrom_init_until hn, hs,
    stepFrom_init_until_eq hn, pixelsFrom_init_until hn]
  rfl

end

/-! ### INITIALIZE -/

/-- INITIALIZE's registers on entry (R155, R180). -/
theorem startOf_init (rot : Rotation) (order : ColorOrder) (s : State) :
    startOf (.init rot order) s =
      { s with rot := rot, cord := order, winValid := false, step := 0#5, busy := true, xfers := 0 } := rfl

/-- Settles O14, from what the whole program does (`finished_initActions`); NOW advances by the two delays at least. -/
theorem initializeCompletes : Obligations.InitializeCompletes := by
  intro s rot order hidle hl hok
  have hbusy := (idle_iff.mp hidle).2
  constructor
  · rw [exec_finished rfl hidle (operandsOk_init rot order s) (admitted_init_resetDone hl) rfl
      (by rwa [callsOf_init])]
    rw [programOf, finished_initActions rfl, startOf_init, hbusy, Nat.zero_add]
    rfl
  · rw [← sleptMs_init s.par rot order]
    exact sleptMs_le_elapsed _ _

/-- In FAILED only HW_RESET is admitted (Table 60-C). -/
theorem admitted_failed {op : HostOp} (hop : op ≠ .hwReset) : admitted op .failed = false := by
  cases op
  case hwReset => exact absurd rfl hop
  all_goals rfl

/-- An admitted INITIALIZE that does not return Ok leaves FAILED (R178). -/
theorem init_failed_life {rot : Rotation} {order : ColorOrder} {s t : State} (hl : s.life = .resetDone)
    (h : exec (.init rot order) s = .next t) (he : t.err ≠ .ok) : t.life = .failed := by
  rcases operation_status rfl h with ⟨ha, -⟩ | ⟨-, hok, -⟩ | ⟨-, -, -, hlife, -⟩
  · rw [opOf, admitted_init_resetDone hl] at ha
    cases ha
  · exact absurd hok he
  · exact hlife

/-- Settles O15: `takeAbort_stopped_initActions` up to the failing call, and FAILED admits only HW_RESET afterwards. -/
theorem initializeAborts : Obligations.InitializeAborts := by
  refine ⟨fun s rot order n hidle hl hn hf => ?_, fun s t rot order i hl h herr hi hne hwf => ?_⟩
  · have hbusy := (idle_iff.mp hidle).2
    have hcalls := callsOf_init rot order s
    rw [exec_stopped rfl hidle (operandsOk_init rot order s) (admitted_init_resetDone hl) rfl (by rwa [hcalls]) hf,
      hcalls]
    rw [opOf, programOf, takeAbort_stopped_initActions hn rfl, startOf_init, hbusy, Nat.zero_add]
  · refine exec_rejected hi (idle_after rfl h) hwf ?_
    rw [init_failed_life hl h herr]
    exact admitted_failed (opOf_ne_hwReset hi hne)

/-! ### The golden sequence -/

/-- The golden sequence around the one byte that depends on the operands: the slots before ORIENTATION and its command,
its data byte, the slots after it (R179). -/
theorem frames_around_orientation (p : Params) (rot : Rotation) (order : ColorOrder) :
    (slotCases p rot order).flatMap (fun x => frameWire x.frame) =
      ((slotCases p rot order).take 13).flatMap (fun x => frameWire x.frame) ++ [(.low, [p.cmd.orientation])] ++
        (.high, [orientationByte p.masks rot order]) ::
          ((slotCases p rot order).drop 14).flatMap (fun x => frameWire x.frame) := by
  have hrow : slotCases p rot order = (slotCases p rot order).take 13 ++
      ⟨.orientation, 13, ⟨p.cmd.orientation, [orientationByte p.masks rot order]⟩, 0⟩ ::
        (slotCases p rot order).drop 14 := rfl
  conv_lhs => rw [hrow]
  rw [List.flatMap_append, List.flatMap_cons, List.append_assoc]
  rfl

/-- No slot but ORIENTATION depends on the operands (Table 42-A). -/
theorem slotCases_around_orientation (p : Params) (r q : Rotation) (o o' : ColorOrder) :
    (slotCases p r o).take 13 = (slotCases p q o').take 13 ∧ (slotCases p r o).drop 14 = (slotCases p q o').drop 14 :=
  ⟨rfl, rfl⟩

/-- An INITIALIZE that returned Ok sent the frames of Table 42-A in order (R179). -/
theorem wire_init {s t : State} {rot : Rotation} {order : ColorOrder} (h : exec (.init rot order) s = .next t)
    (he : t.err = .ok) :
    wire (newEntries s t) = (slotCases s.par rot order).flatMap (fun x => frameWire x.frame) := by
  obtain ⟨-, -, hentries, -⟩ := init_returned h he
  rw [hentries, initCalls, wire_rows]

theorem masksWf_of_hasMeaning {s : State} (h : noMeaning s = none) : masksWf s.par.masks = true := by
  have hp := (noMeaning_eq_none.mp h).2
  simp only [parametersWf, Bool.and_eq_true] at hp
  exact hp.1.1.1.2

/-- Settles O16: two golden sequences split around the orientation byte, which tells the operands
(`orientationByte_inj`). -/
theorem goldenSequenceDiffersInOneByte : Obligations.GoldenSequenceDiffersInOneByte := by
  intro s t s' t' r q o p hpar hs hs' ht ht'
  have hwire := wire_init hs hs'
  have hwire' := wire_init ht ht'
  obtain ⟨htake, hdrop⟩ := slotCases_around_orientation s.par r q o p
  refine ⟨hwire, _, ((slotCases s.par r o).drop 14).flatMap (fun x => frameWire x.frame), rfl, ?_, ?_,
    fun hne heq => ?_⟩
  · rw [hwire, frames_around_orientation]
  · rw [hwire', ← hpar, frames_around_orientation, htake, hdrop]
  · obtain ⟨hr, ho⟩ := orientationByte_inj (masksWf_of_hasMeaning (exec_hasMeaning hs)) heq
    exact hne (Prod.ext hr ho)

end Sys2Proof.Machine

/-! SUPPORT. Who writes ROT and CORD (spec/42_initializer.md R180). -/

namespace Sys2Proof.Machine

open Sys2Proof

theorem returnOk_orientation (op : HostOp) (s : State) :
    (returnOk op s).rot = s.rot ∧ (returnOk op s).cord = s.cord := by cases op <;> exact ⟨rfl, rfl⟩

theorem takeAbort_orientation (op : HostOp) (e : Result) (s : State) :
    (takeAbort op e s).rot = s.rot ∧ (takeAbort op e s).cord = s.cord := by cases op <;> exact ⟨rfl, rfl⟩

/-- An operation that was not rejected leaves ROT and CORD as on its entry; a frame leaves them alone. -/
theorem exec_orientation {i : Instr} {s t : State} (h : exec i s = .next t) :
    (isOperation i = true ∧ admitted (opOf i) s.life = true ∧
      t.rot = (startOf i s).rot ∧ t.cord = (startOf i s).cord) ∨
    ((isOperation i = true → admitted (opOf i) s.life = false) ∧ t.rot = s.rot ∧ t.cord = s.cord) := by
  rcases exec_ran h with ⟨-, ha, rfl, -⟩ | ⟨-, -, hop, hframe⟩ | ⟨n, -, -, -, hop, hframe⟩
  · exact .inr ⟨fun _ => ha, rfl, rfl⟩
  · by_cases hi : isOperation i = true
    · obtain ⟨ha, -, rfl⟩ := hop hi
      exact .inl ⟨hi, ha, returnOk_orientation _ _⟩
    · obtain ⟨-, rfl⟩ := hframe (by simpa using hi)
      exact .inr ⟨fun hop => absurd hop hi, rfl, rfl⟩
  · by_cases hi : isOperation i = true
    · obtain ⟨ha, -, rfl⟩ := hop hi
      exact .inl ⟨hi, ha, takeAbort_orientation _ _ _⟩
    · obtain ⟨-, rfl⟩ := hframe (by simpa using hi)
      exact .inr ⟨fun hop => absurd hop hi, takeAbort_orientation _ _ _⟩

/-- INITIALIZE alone writes ROT and CORD on its entry (R180). -/
theorem startOf_orientation {i : Instr} (hne : ∀ rot order, i ≠ .init rot order) (s : State) :
    (startOf i s).rot = s.rot ∧ (startOf i s).cord = s.cord := by
  cases i
  case init rot order => exact absurd rfl (hne rot order)
  all_goals exact ⟨rfl, rfl⟩

/-- Where INITIALIZE is admitted (Table 60-C). -/
theorem admitted_init_iff {l : Life} : admitted .init l = true ↔ l = .resetDone := by
  cases l <;> decide

/-- Settles O49: ROT and CORD are those of the entry, which INITIALIZE alone writes, and only where it is admitted. -/
theorem onlyInitializeWritesOrientation : Obligations.OnlyInitializeWritesOrientation := by
  intro s t i h
  refine ⟨?_, fun hor => ?_⟩
  · rintro rot order rfl hl
    rcases exec_orientation h with ⟨-, -, hrot, hcord⟩ | ⟨ha, -⟩
    · exact ⟨hrot, hcord⟩
    · have hrejected := ha rfl
      rw [opOf, admitted_init_iff.mpr hl] at hrejected
      cases hrejected
  · rcases exec_orientation h with ⟨hi, ha, hrot, hcord⟩ | ⟨-, hrot, hcord⟩
    · have hne : ∀ rot order, i ≠ .init rot order := by
        rintro rot order rfl
        exact hor.elim (fun hne => hne rot order rfl) fun hl => hl (admitted_init_iff.mp ha)
      obtain ⟨hrot', hcord'⟩ := startOf_orientation hne s
      exact ⟨hrot.trans hrot', hcord.trans hcord'⟩
    · exact ⟨hrot, hcord⟩

end Sys2Proof.Machine

/-! SUPPORT. Which command bytes the exposed operations send (spec/30_encoding.md R102). -/

namespace Sys2Proof.Machine

open Sys2Proof

/-- A call that, if it is a transfer at LOW, carries the command byte of one of the 19 kinds. -/
def CommandInTable (c : CmdBytes) (e : Event) : Prop :=
  ∀ bs, eventTransfer e = some (.low, bs) → ∃ k : FrameKind, bs = [cmdOf c k]

/-- A frame whose command byte is that of a kind. -/
theorem commandInTable_frame {c : CmdBytes} {f : Frame} {k : FrameKind} (hf : f.cmd = cmdOf c k) {e : Event}
    (h : e ∈ frameCalls f) : CommandInTable c e := by
  intro bs he
  rw [frameCalls] at h
  rcases List.mem_append.mp h with h | h
  · rcases List.mem_cons.mp h with rfl | h
    · cases he
    · rw [List.mem_singleton.mp h] at he
      cases he
      exact ⟨k, by rw [hf]⟩
  · split at h
    · cases h
    · rcases List.mem_cons.mp h with rfl | h
      · cases he
      · rw [List.mem_singleton.mp h] at he
        cases he

theorem commandInTable_init {p : Params} {rot : Rotation} {order : ColorOrder} {e : Event}
    (h : e ∈ initCalls p rot order) : CommandInTable p.cmd e := by
  obtain ⟨x, hx, he⟩ := List.mem_flatMap.mp h
  obtain ⟨-, hcmd, -⟩ := slotCase_fields hx
  rcases List.mem_append.mp he with he | he
  · exact commandInTable_frame hcmd.symm he
  · intro bs hbs
    split at he
    · cases he
    · rw [List.mem_singleton.mp he] at hbs
      cases hbs

theorem commandInTable_setWindow {c : CmdBytes} {w : Window} {e : Event} (h : e ∈ setWindowCalls c w) :
    CommandInTable c e := by
  rcases List.mem_append.mp h with h | h
  · rcases List.mem_append.mp h with h | h
    · exact commandInTable_frame (k := .colRange) rfl h
    · exact commandInTable_frame (k := .rowRange) rfl h
  · exact commandInTable_frame (k := .memWrite) rfl h

/-- FLUSH's pixels go at HIGH (R218). -/
theorem commandInTable_flush {s : State} {w : Window} {e : Event} (h : e ∈ flushCalls s w) :
    CommandInTable s.par.cmd e := by
  rcases List.mem_append.mp h with h | h
  · exact commandInTable_setWindow h
  · intro bs he
    rcases List.mem_cons.mp h with rfl | h
    · cases he
    · obtain ⟨cs, -, rfl⟩ := List.mem_map.mp h
      cases he

/-- The exposed operations make only such calls (R102). -/
theorem commandInTable_exposed {i : Instr} {s : State}
    (hi : i = .hwReset ∨ (∃ rot order, i = .init rot order) ∨ ∃ w, i = .flush w) {e : Event}
    (h : e ∈ instrCalls i s) : CommandInTable s.par.cmd e := by
  rcases hi with rfl | ⟨rot, order, rfl⟩ | ⟨w, rfl⟩
  · intro bs he
    rw [hwResetCalls_noTransfer h] at he
    cases he
  · have hcalls : instrCalls (.init rot order) s = initCalls s.par rot order := callsOf_init rot order s
    rw [hcalls] at h
    exact commandInTable_init h
  · have hcalls : instrCalls (.flush w) s = flushCalls s w := callsOf_flush w s
    rw [hcalls] at h
    exact commandInTable_flush h

/-- Every call an instruction adds to TRACE is one of its calls. -/
theorem newEntries_event_mem {i : Instr} {s t : State} (h : exec i s = .next t) {e : Entry}
    (he : e ∈ newEntries s t) : e.event ∈ instrCalls i s := by
  rcases exec_ran h with ⟨-, -, -, hran⟩ | ⟨hran, -⟩ | ⟨n, hn, -, hran, -⟩
  · rw [hran.newEntries] at he
    cases he
  · rw [hran.newEntries] at he
    simpa using mem_ranEntries he
  · rw [hran.newEntries] at he
    rcases List.mem_append.mp (mem_ranEntries he) with he | he
    · exact List.mem_of_mem_take he
    · rw [Option.toList_some, List.mem_singleton] at he
      rw [he]
      exact failingCall_mem hn

/-- Settles O51: each transfer added to the wire is one of the operation's calls, whose command bytes are the table's. -/
theorem onlyTableCommandBytesAreSent : Obligations.OnlyTableCommandBytesAreSent := by
  intro s t i h hi bs hbs
  obtain ⟨e, he, htransfer⟩ := List.mem_filterMap.mp hbs
  exact commandInTable_exposed hi (newEntries_event_mem h he) bs htransfer

end Sys2Proof.Machine

/-! SUPPORT. The Addressing-Window Protocol (spec/43_window.md R200 to R206): what the frames of a SET_WINDOW in progress
and SET_WINDOW run alone do when their calls answer `ok` and when one fails, and SET_WINDOW as its frames in order. -/

namespace Sys2Proof.Machine

open Sys2Proof

/-! ### A program in two parts -/

theorem finished_append (as bs : List Action) (s : State) : finished (as ++ bs) s = applyActs bs (finished as s) := by
  simp only [← applyActs_eq, applyActs_append]

/-- A program whose failing call lies in its first part stops as that part does. -/
theorem stopped_append_left {as : List Action} {n : Nat} {s : State} (hn : n < (callsFrom s.dc as).length)
    (bs : List Action) : stopped (as ++ bs) n s = stopped as n s := by
  have htake : (callsFrom s.dc (as ++ bs)).take n = (callsFrom s.dc as).take n := by
    rw [callsFrom_append, List.take_append_of_le_length hn.le]
  have hfailing : failingCall (callsFrom s.dc (as ++ bs)) n = failingCall (callsFrom s.dc as) n := by
    rw [callsFrom_append, failingCall, List.getD_append _ _ _ _ hn, failingCall]
  have huntil : untilCall n (as ++ bs) = untilCall n as := by rw [untilCall_append n as bs s.dc, if_pos hn]
  simp only [stopped, traceToFailure, htake, hfailing, huntil]

/-! ### A frame of SET_WINDOW -/

/-- The frames of SET_WINDOW (R201 to R203): the instruction and what it sends. -/
def WindowFrame (c : CmdBytes) (i : Instr) (f : Frame) : Prop :=
  (∃ a b, i = .colRange a b ∧ f = ⟨c.colRange, rangeData a b⟩) ∨
    (∃ a b, i = .rowRange a b ∧ f = ⟨c.rowRange, rangeData a b⟩) ∨
      (i = .memWrite ∧ f = ⟨c.memWrite, []⟩)

theorem windowFrame_colRange (c : CmdBytes) (a b : Half) :
    WindowFrame c (.colRange a b) ⟨c.colRange, rangeData a b⟩ := .inl ⟨a, b, rfl, rfl⟩

theorem windowFrame_rowRange (c : CmdBytes) (a b : Half) :
    WindowFrame c (.rowRange a b) ⟨c.rowRange, rangeData a b⟩ := .inr (.inl ⟨a, b, rfl, rfl⟩)

theorem windowFrame_memWrite (c : CmdBytes) : WindowFrame c .memWrite ⟨c.memWrite, []⟩ := .inr (.inr ⟨rfl, rfl⟩)

theorem windowProgram_memWrite (c : CmdBytes) : windowProgram c .memWrite = sendActions c.memWrite [] := rfl

theorem WindowFrame.instr_cases {c : CmdBytes} {i : Instr} {f : Frame} (h : WindowFrame c i f) :
    (∃ a b, i = .colRange a b) ∨ (∃ a b, i = .rowRange a b) ∨ i = .memWrite := by
  rcases h with ⟨a, b, hi, -⟩ | ⟨a, b, hi, -⟩ | ⟨hi, -⟩
  · exact .inl ⟨a, b, hi⟩
  · exact .inr (.inl ⟨a, b, hi⟩)
  · exact .inr (.inr hi)

theorem WindowFrame.callsFrom_program {c : CmdBytes} {i : Instr} {f : Frame} (h : WindowFrame c i f) (dc : Level) :
    callsFrom dc (windowProgram c i) = frameCalls f := by
  rcases h with ⟨a, b, rfl, rfl⟩ | ⟨a, b, rfl, rfl⟩ | ⟨rfl, rfl⟩
  · exact callsFrom_colRange dc c a b
  · exact callsFrom_rowRange dc c a b
  · exact callsFrom_memWrite dc c

/-- A frame of SET_WINDOW sends first and mirrors its axis of WIN, if any, afterwards. -/
theorem WindowFrame.program {c : CmdBytes} {i : Instr} {f : Frame} (h : WindowFrame c i f) :
    ∃ mirror, windowProgram c i = sendActions f.cmd f.data ++ mirror := by
  rcases h with ⟨a, b, rfl, rfl⟩ | ⟨a, b, rfl, rfl⟩ | ⟨rfl, rfl⟩
  · exact ⟨[.setCols a b], rfl⟩
  · exact ⟨[.setRows a b], rfl⟩
  · exact ⟨[], (List.append_nil _).symm⟩

/-- A frame of SET_WINDOW whose n-th call (from 0) failed: its mirror is not written (R206). -/
theorem WindowFrame.stopped_program {c : CmdBytes} {i : Instr} {f : Frame} {n : Nat} {s : State} (h : WindowFrame c i f)
    (hn : n < (frameCalls f).length) :
    stopped (windowProgram c i) n s = { s with
      dc := levelAfter s.dc ((frameCalls f).take n)
      xfers := s.xfers + transfersIn ((frameCalls f).take n)
      trace := s.trace ++ traceToFailure (frameCalls f) n
      env := s.env.drop (n + 1) } := by
  obtain ⟨mirror, hprogram⟩ := h.program
  obtain ⟨hdc, hxfers, -⟩ := frameCalls_until hn s.dc 0
  rw [hprogram, stopped_append_left (by rwa [callsFrom_sendActions]), stopped_sendActions hn, hdc, hxfers]

theorem rangeData_ne_nil (a b : Half) : rangeData a b ≠ [] := List.cons_ne_nil _ _

theorem frameCalls_range_length (cmd : Byte) (a b : Half) : (frameCalls ⟨cmd, rangeData a b⟩).length = 4 := by
  rw [frameCalls_length, if_neg (rangeData_ne_nil a b)]

/-- A range frame whose calls answered `ok`, its bytes written out (R95). -/
theorem finished_range (cmd : Byte) (a b : Half) (s : State) :
    finished (sendActions cmd (rangeData a b)) s = { s with
      dc := .high
      xfers := s.xfers + 2
      trace := s.trace ++ okEntries
        [.gpioDc .low, .busXfer .low [cmd], .gpioDc .high, .busXfer .high [hi8 a, lo8 a, hi8 b, lo8 b]]
      env := s.env.drop 4 } := by
  have hne := rangeData_ne_nil a b
  rw [finished_sendActions, frameCalls_range_length, frameCalls_eq_ite, if_neg hne, if_neg hne, if_neg hne]
  rfl

section

variable {s : State} {i : Instr} {f : Frame} (h : WindowFrame s.par.cmd i f) (hp : inProgress s = true)
  (hl : s.life = .ready) (hwf : i.wf s.cfg s.rot = true)

include h hp hl hwf

omit hp in
/-- In a SET_WINDOW in progress its frames run in place. -/
theorem exec_windowFrame : exec i s = runFrame .setWindow true true (windowProgram s.par.cmd i) s := by
  obtain ⟨hw, hplace, hi, hop, hprogram⟩ := windowFrame_place hl h.instr_cases
  rw [exec_frame hi, hop, hplace, hw, hwf, hprogram]
  rfl

/-- A frame of SET_WINDOW whose calls answer `ok`. -/
theorem exec_windowFrame_finished (hok : answersOk (frameCalls f).length s = true) :
    exec i s = .next (finished (windowProgram s.par.cmd i) s) := by
  rw [exec_windowFrame h hl hwf, runFrame_inPlace hp rfl rfl, runActions_finished (by rwa [h.callsFrom_program])]

/-- A frame of SET_WINDOW whose n-th call (from 0) fails. -/
theorem exec_windowFrame_stopped {n : Nat} (hn : n < (frameCalls f).length) (hf : failsAfter n s = true) :
    exec i s =
      .next (takeAbort .setWindow
        (errorFor (s.xfers + transfersIn ((frameCalls f).take n)) (failingCall (frameCalls f) n))
        (stopped (windowProgram s.par.cmd i) n s)) := by
  rw [exec_windowFrame h hl hwf, runFrame_inPlace hp rfl rfl, runActions_stopped (by rwa [h.callsFrom_program]) hf,
    h.callsFrom_program]

end

theorem axisWf_of_le_of_lt {a b : Half} {extent : Nat} (hab : a ≤ b) (hb : b.toNat < extent) :
    axisWf a b extent = true := by
  rw [axisWf, decide_eq_true hab, decide_eq_true hb, Bool.and_self]

/-- Settles O26: a range frame is what it sends (`finished_range`) and then its mirror, MEM_WRITE only a command. -/
theorem windowFramesComplete : Obligations.WindowFramesComplete := by
  intro s a b hp hl
  refine ⟨fun hab hb hok => ?_, fun hab hb hok => ?_, fun hok => ?_⟩
  · rw [exec_windowFrame_finished (windowFrame_colRange _ a b) hp hl (axisWf_of_le_of_lt hab hb)
      (by rwa [frameCalls_range_length])]
    rw [windowProgram, colRangeActions, finished_append, finished_range]
    rfl
  · rw [exec_windowFrame_finished (windowFrame_rowRange _ a b) hp hl (axisWf_of_le_of_lt hab hb)
      (by rwa [frameCalls_range_length])]
    rw [windowProgram, rowRangeActions, finished_append, finished_range]
    rfl
  · rw [exec_windowFrame_finished (windowFrame_memWrite _) hp hl rfl hok]
    rw [windowProgram_memWrite, finished_sendActions]
    rfl

/-- Settles O27, from what a frame does up to its failing call (`WindowFrame.stopped_program`). -/
theorem windowFramesAbort : Obligations.WindowFramesAbort := by
  intro s i f n hp hl hwf h hn hf
  have hframe : WindowFrame s.par.cmd i f := h
  rw [exec_windowFrame_stopped hframe hp hl hwf hn hf, hframe.stopped_program hn]
  rfl

/-! ### SET_WINDOW run alone -/

theorem setWindowCalls_quiet {c : CmdBytes} {w : Window} {e : Event} (h : e ∈ setWindowCalls c w) :
    (∀ l, e ≠ .gpioRst l) ∧ (∀ ms, e ≠ .sleep ms) := by
  rcases mem_setWindowCalls h with ⟨l, rfl⟩ | ⟨l, bs, rfl⟩ <;> simp

/-- SET_WINDOW ends with a command (R203), its fifth transfer. -/
theorem setWindowCalls_ends (c : CmdBytes) (w : Window) (dc : Level) :
    levelAfter dc (setWindowCalls c w) = .low ∧ transfersIn (setWindowCalls c w) = 5 := by
  rw [setWindowCalls_eq]
  exact ⟨rfl, rfl⟩

/-- In SET_WINDOW line drives and transfers alternate: n/2 transfers stand before its n-th call (from 0). -/
theorem setWindowCalls_until {n : Nat} (hn : n < 10) (c : CmdBytes) (w : Window) (k : Nat) :
    transfersIn ((setWindowCalls c w).take n) = n / 2 ∧
      errorFor k (failingCall (setWindowCalls c w) n) =
        if n % 2 = 0 then .sequenceError .gpioDc else .busError k := by
  rw [setWindowCalls_eq]
  interval_cases n <;> exact ⟨rfl, rfl⟩

/-- SET_WINDOW's program when its calls answered `ok` (R200, R204). -/
theorem finished_setWindowActions (c : CmdBytes) (w : Window) (s : State) :
    finished (setWindowActions c w) s = { s with
      win := w
      winValid := true
      dc := .low
      xfers := s.xfers + 5
      trace := s.trace ++ okEntries (setWindowCalls c w)
      env := s.env.drop 10 } := by
  obtain ⟨hdc, hxfers⟩ := setWindowCalls_ends c w s.dc
  simp only [finished, callsFrom_setWindow, setWindowCalls_length, hdc, hxfers, winFrom_setWindow,
    winValidFrom_setWindow, stepFrom_setWindow, pixelsFrom_setWindow,
    resetLineAfter_of_none fun e he => (setWindowCalls_quiet he).1,
    elapsed_of_none fun e he => (setWindowCalls_quiet he).2, Nat.add_zero]

/-- SET_WINDOW's program, its n-th call (from 0) failing, after the abort (R206, R245). -/
theorem takeAbort_stopped_setWindowActions {n : Nat} (hn : n < 10) (c : CmdBytes) (w : Window) (s : State)
    (e : Result) :
    takeAbort .setWindow e (stopped (setWindowActions c w) n s) = { s with
      win := if n < 4 then s.win else if n < 8 then { s.win with xs := w.xs, xe := w.xe } else w
      winValid := false
      dc := levelAfter s.dc ((setWindowCalls c w).take n)
      xfers := s.xfers + n / 2
      busy := false
      err := e
      trace := s.trace ++ traceToFailure (setWindowCalls c w) n
      env := s.env.drop (n + 1) } := by
  have hquiet : ∀ e ∈ (setWindowCalls c w).take n, (∀ l, e ≠ .gpioRst l) ∧ (∀ ms, e ≠ .sleep ms) :=
    fun e he => setWindowCalls_quiet (List.mem_of_mem_take he)
  simp only [stopped, callsFrom_setWindow, (setWindowCalls_until hn c w 0).1, winFrom_setWindow_until hn,
    stepFrom_setWindow_until hn, pixelsFrom_setWindow_until hn,
    resetLineAfter_of_none fun e he => (hquiet e he).1, elapsed_of_none fun e he => (hquiet e he).2, Nat.add_zero]
  rfl

theorem admitted_setWindow_ready {s : State} (hl : s.life = .ready) : admitted .setWindow s.life = true := by
  rw [hl]; rfl

/-- Settles O28, from what the whole program does (`finished_setWindowActions`). -/
theorem setWindowCompletes : Obligations.SetWindowCompletes := by
  intro s w hidle hl hwf hok
  have hbusy := (idle_iff.mp hidle).2
  rw [exec_finished (i := .setWindow w) rfl hidle (windowOk_of_wf hwf) (admitted_setWindow_ready hl) rfl
    (by rwa [callsOf_setWindow, setWindowCalls_length])]
  rw [programOf, finished_setWindowActions, startOf_xfers, setWindowCalls_eq, hbusy]
  rfl

/-- Settles O29: `takeAbort_stopped_setWindowActions` up to the failing call. -/
theorem setWindowAborts : Obligations.SetWindowAborts := by
  intro s w n hidle hl hwf hn hf
  have hbusy := (idle_iff.mp hidle).2
  have hcalls := callsOf_setWindow w s
  obtain ⟨hxfers, herr⟩ := setWindowCalls_until hn s.par.cmd w (n / 2)
  rw [exec_stopped (i := .setWindow w) rfl hidle (windowOk_of_wf hwf) (admitted_setWindow_ready hl) rfl
    (by rwa [hcalls, setWindowCalls_length]) hf]
  rw [hcalls, hxfers, herr, opOf, programOf, takeAbort_stopped_setWindowActions hn, startOf_xfers, Nat.zero_add, hbusy]
  rfl

/-! ### SET_WINDOW as its frames -/

/-- Going on with an operation in progress; an abort (BUSY = 0) has ended it. -/
def whileBusy (k : State → Out) (t : State) : Out := if t.busy then k t else .next t

/-- The frames of an operation run one at a time, each going on only if it did not abort. -/
theorem outThen_runFrames_cons (i : Instr) (rest : List Instr) (s : State) (k : State → Out) :
    outThen (runFrames (i :: rest) s) (whileBusy k) =
      outThen (exec i s) (whileBusy fun t => outThen (runFrames rest t) (whileBusy k)) := by
  rw [runFrames]
  cases exec i s with
  | next t =>
    show outThen (if t.busy then runFrames rest t else .next t) (whileBusy k) =
      if t.busy then outThen (runFrames rest t) (whileBusy k) else .next t
    by_cases hb : t.busy = true
    · rw [if_pos hb, if_pos hb]
    · rw [if_neg hb, if_neg hb]
      exact if_neg hb
  | fault r => rfl
  | refused r => rfl

theorem Untouched.inProgress {s t : State} (h : Untouched s t) : inProgress t = inProgress s := by
  rw [Machine.inProgress, Machine.inProgress, h.attached, h.cfg, h.par, h.busy]

/-- A frame of SET_WINDOW and then a rest is the program of both, if the rest is the program of its own from every state
that the frame can leave in progress. -/
theorem outThen_windowFrame {s : State} {i : Instr} {f : Frame} {k : State → Out} {rest : List Action}
    (h : WindowFrame s.par.cmd i f) (hp : inProgress s = true) (hl : s.life = .ready)
    (hwf : i.wf s.cfg s.rot = true)
    (hk : ∀ t, Untouched s t → k t = conclude .setWindow (runActions rest t)) :
    outThen (exec i s) (whileBusy k) =
      conclude .setWindow (runActions (windowProgram s.par.cmd i ++ rest) s) := by
  rw [exec_windowFrame h hl hwf, runFrame_inPlace hp rfl rfl, runActions_append]
  rcases runActions_total (windowProgram s.par.cmd i) s with ⟨-, hr⟩ | ⟨n, -, -, hr⟩ | ⟨hr, -⟩
  · have ht : Untouched s (finished (windowProgram s.par.cmd i) s) := applyActs_eq _ s ▸ applyActs_untouched _ s
    rw [hr, Progress.andThen_through, ← hk _ ht]
    exact if_pos (ht.busy.trans (inProgress_iff.mp hp).2)
  · rw [hr]; rfl
  · rw [hr]; rfl

/-- The last part of SET_WINDOW run as a frame: WIN_VALID set, MEM_WRITE, the return (R203, R204). -/
theorem outThen_memWrite {s : State} (hp : inProgress s = true) (hl : s.life = .ready) :
    outThen (exec .memWrite { s with winValid := true })
        (whileBusy fun u => .next { u with busy := false, err := .ok }) =
      conclude .setWindow (runActions (.setWinValid true :: memWriteActions s.par.cmd) s) := by
  have hmem := outThen_windowFrame (s := { s with winValid := true }) (rest := [])
    (k := fun u => .next { u with busy := false, err := .ok }) (windowFrame_memWrite _) hp hl rfl fun t _ => rfl
  rw [hmem, List.append_nil]
  rfl

/-- Settles O30: both sides are SET_WINDOW's program from its entry, frame by frame (`outThen_windowFrame`). -/
theorem setWindowIsItsFramesInOrder : Obligations.SetWindowIsItsFramesInOrder := by
  intro s w hidle hl hwf
  obtain ⟨hcols, hrows⟩ := Bool.and_eq_true_iff.mp hwf
  have hentry : inProgress { s with busy := true, xfers := 0, winValid := false } = true :=
    inProgress_iff.mpr ⟨(idle_iff.mp hidle).1, rfl⟩
  have hprogram : setWindowActions s.par.cmd w =
      .setWinValid false :: (colRangeActions s.par.cmd w.xs w.xe ++
        (rowRangeActions s.par.cmd w.ys w.ye ++ .setWinValid true :: memWriteActions s.par.cmd)) := by
    simp only [setWindowActions, List.append_assoc, List.singleton_append]
  rw [exec_admitted (i := .setWindow w) rfl hidle (windowOk_of_wf hwf) (admitted_setWindow_ready hl) rfl, programOf,
    hprogram]
  symm
  refine (outThen_runFrames_cons _ _ _ _).trans
    (outThen_windowFrame (windowFrame_colRange _ w.xs w.xe) hentry hl hcols fun t ht => ?_)
  have htp : inProgress t = true := ht.inProgress.trans hentry
  have htl : t.life = .ready := ht.life.trans hl
  have htwf : (Instr.rowRange w.ys w.ye).wf t.cfg t.rot = true := by rw [ht.cfg, ht.rot]; exact hrows
  have htpar : t.par = s.par := ht.par
  rw [outThen_runFrames_cons, ← htpar]
  refine outThen_windowFrame (windowFrame_rowRange _ w.ys w.ye) htp htl htwf fun u hu => ?_
  have hup : inProgress u = true := hu.inProgress.trans htp
  rw [← hu.par, ← outThen_memWrite hup (hu.life.trans htl)]
  exact if_pos (inProgress_iff.mp hup).2

end Sys2Proof.Machine

/-! SUPPORT. The Pixel Pipeline (spec/44_pixel_pipeline.md R215 to R225): the chunks of a payload, SERIALIZE's walk
through FB space, what FLUSH does when its calls answer `ok` and when one fails, and what a successful one sends. -/

namespace Sys2Proof.Machine

open Sys2Proof

/-! ### Chunks -/

theorem chunksUpTo_length_le {m : Nat} (n : Nat) (bs : List Byte) : ∀ c ∈ chunksUpTo n m bs, c.length ≤ m := by
  induction n generalizing bs with
  | zero => simp [chunksUpTo]
  | succ n ih =>
    cases bs with
    | nil => simp [chunksUpTo]
    | cons b bs => exact List.forall_mem_cons.mpr ⟨List.length_take_le _ _, ih _⟩

section

variable {m : Nat} (hm : 1 ≤ m) {bs : List Byte} (hbs : bs ≠ [])

include hm

/-- A limit m makes ceil(n/m) chunks (R218). -/
theorem chunks_some_length : (chunks (some m) bs).length = (bs.length + m - 1) / m := chunksUpTo_length hm _ _ le_rfl

theorem chunks_some_flatten : (chunks (some m) bs).flatten = bs := chunksUpTo_flatten hm _ _ le_rfl

/-- Every chunk but the last has m bytes (R218). -/
theorem chunks_some_full : ∀ c ∈ (chunks (some m) bs).dropLast, c.length = m := chunksUpTo_full hm _ _ le_rfl

include hbs

theorem chunks_some_ne_nil : chunks (some m) bs ≠ [] := by
  intro he
  rw [← chunks_some_flatten hm (bs := bs), he] at hbs
  exact hbs rfl

/-- The last chunk has what the full ones before it leave (R218). -/
theorem chunks_some_last :
    ∃ last, (chunks (some m) bs).getLast? = some last ∧
      last.length = bs.length - m * ((chunks (some m) bs).length - 1) ∧ 1 ≤ last.length ∧ last.length ≤ m := by
  have hne := chunks_some_ne_nil hm hbs
  have hmem := List.getLast_mem hne
  have hfull : ((chunks (some m) bs).dropLast.map List.length).sum = m * ((chunks (some m) bs).length - 1) := by
    rw [List.sum_eq_card_nsmul _ m (List.forall_mem_map.mpr (chunks_some_full hm)), List.length_map,
      List.length_dropLast, smul_eq_mul, Nat.mul_comm]
  have hsplit : bs.length = m * ((chunks (some m) bs).length - 1) + ((chunks (some m) bs).getLast hne).length := by
    conv_lhs => rw [← chunks_some_flatten hm (bs := bs), ← List.dropLast_append_getLast hne]
    simp only [List.flatten_append, List.length_append, List.flatten_singleton, List.length_flatten, hfull]
  refine ⟨_, List.getLast?_eq_some_getLast hne, by omega, ?_, chunksUpTo_length_le _ _ _ hmem⟩
  exact List.length_pos_iff.mpr (chunksUpTo_ne_nil hm _ _ _ hmem)

end

/-- Settles O31, clause by clause from the lemmas about `chunks`. -/
theorem chunksAreGreedy : Obligations.ChunksAreGreedy := fun _ hbs =>
  ⟨chunks_none hbs, fun _ hm =>
    ⟨chunks_some_flatten hm, chunks_some_length hm, chunks_some_full hm, chunks_some_last hm hbs⟩⟩

/-! ### SERIALIZE -/

/-- Two pixels of FB space have different indices (R62). -/
theorem pixelAddress_inj {g : Cfg} {rot : Rotation} {c r c' r' : Nat} (hc : c < colExtent g rot)
    (hc' : c' < colExtent g rot) (h : pixelAddress g rot c r = pixelAddress g rot c' r') : c = c' ∧ r = r' := by
  have hpos : 0 < colExtent g rot := Nat.zero_lt_of_lt hc
  have hdiv := congrArg (· / colExtent g rot) h
  have hmod := congrArg (· % colExtent g rot) h
  simp only [pixelAddress, Nat.mul_add_mod', Nat.mod_eq_of_lt hc, Nat.mod_eq_of_lt hc'] at hmod
  simp only [pixelAddress, Nat.mul_comm _ (colExtent g rot), Nat.mul_add_div hpos, Nat.div_eq_of_lt hc,
    Nat.div_eq_of_lt hc', Nat.add_zero] at hdiv
  exact ⟨hmod, hdiv⟩

/-- A position inside the extents has its pixel inside FB space (R61, R62). -/
theorem pixelAddress_lt {g : Cfg} {rot : Rotation} {c r : Nat} (hc : c < colExtent g rot) (hr : r < rowExtent g rot) :
    pixelAddress g rot c r < frameBufferPixels g rot :=
  calc r * colExtent g rot + c
      < (r + 1) * colExtent g rot := by rw [Nat.succ_mul]; omega
    _ ≤ rowExtent g rot * colExtent g rot := Nat.mul_le_mul_right _ hr
    _ = frameBufferPixels g rot := Nat.mul_comm _ _

/-- A walk visits no position twice (R216). -/
theorem windowPosition_inj {w : Window} {k l : Nat} (h : windowPosition w k = windowPosition w l) : k = l := by
  obtain ⟨hcol, hrow⟩ := Prod.mk.inj h
  exact Nat.ext_div_mod (Nat.add_left_cancel hrow) (Nat.add_left_cancel hcol)

/-- The pixel indices of a window are those of its walk's positions (R216). -/
theorem windowAddresses_eq_walk (g : Cfg) (rot : Rotation) (w : Window) :
    windowAddresses g rot w =
      (List.range (windowWidth w * windowHeight w)).map fun k =>
        pixelAddress g rot (windowPosition w k).1 (windowPosition w k).2 := windowAddresses_eq g rot w

section

variable {g : Cfg} {rot : Rotation} {w : Window} (hw : windowWf g rot w = true)

include hw

theorem windowPosition_col_lt (k : Nat) : (windowPosition w k).1 < colExtent g rot := by
  obtain ⟨hx, hxe, -, -⟩ := windowWf_iff.mp hw
  have hcol := Nat.mod_lt k (windowWidth_pos w)
  simp only [windowPosition, windowWidth] at hcol ⊢
  omega

theorem windowPosition_row_lt {k : Nat} (hk : k < windowWidth w * windowHeight w) :
    (windowPosition w k).2 < rowExtent g rot := by
  obtain ⟨-, -, hy, hye⟩ := windowWf_iff.mp hw
  exact (windowPosition_row_le hy hk).trans_lt hye

/-- SERIALIZE reads no pixel twice (R217). -/
theorem windowAddresses_nodup : (windowAddresses g rot w).Nodup := by
  rw [windowAddresses_eq_walk]
  refine List.Nodup.map (fun k l h => windowPosition_inj (w := w) ?_) List.nodup_range
  obtain ⟨hcol, hrow⟩ := pixelAddress_inj (windowPosition_col_lt hw k) (windowPosition_col_lt hw l) h
  exact Prod.ext hcol hrow

/-- "every address is inside FB space because the window is well-formed" (R217). -/
theorem windowAddresses_inside : ∀ a ∈ windowAddresses g rot w, a < frameBufferPixels g rot := by
  rw [windowAddresses_eq_walk]
  simp only [List.forall_mem_map, List.mem_range]
  exact fun k hk => pixelAddress_lt (windowPosition_col_lt hw k) (windowPosition_row_lt hw hk)

end

theorem windowAddresses_getElem? (g : Cfg) (rot : Rotation) {w : Window} {k : Nat}
    (hk : k < windowWidth w * windowHeight w) :
    (windowAddresses g rot w)[k]? = some (pixelAddress g rot (windowPosition w k).1 (windowPosition w k).2) := by
  rw [windowAddresses_eq_walk, List.getElem?_map, List.getElem?_range hk]
  rfl

/-- SERIALIZE makes no call and writes TXBUF and PIX only (R217). -/
theorem finished_serializeActions (w : Window) {s : State} (hpix : s.pix = 0) (htx : s.txbuf = []) :
    finished (serializeActions s.cfg s.rot w) s =
      { s with txbuf := flushPayload s w, pix := windowWidth w * windowHeight w } := by
  simp only [finished, serializeActions, callsFrom_serialize, winFrom_serialize, winValidFrom_serialize,
    stepFrom_serialize, pixelsFrom_serialize, serialized_window, windowAddresses_length, hpix, htx, List.nil_append,
    Nat.zero_add, okEntries_nil, List.append_nil]
  rfl

/-- Settles O32: the walk's positions are inside the extents and pairwise different (`windowPosition_inj`), and so are
their pixel indices (`pixelAddress_inj`). -/
theorem serializeReadsRowMajor : Obligations.SerializeReadsRowMajor := by
  intro s w hw hpix htx
  refine ⟨windowAddresses_length .., windowAddresses_nodup hw, windowAddresses_inside hw,
    fun k hk => ⟨windowAddresses_getElem? _ _ hk, flushPayload_getElem? s w hk⟩, flushPayload_length s w, ?_⟩
  have hcalls : callsFrom s.dc (serializeActions s.cfg s.rot w) = [] := callsFrom_serialize _ _
  rw [runActions_finished (by rw [hcalls]; rfl), finished_serializeActions w hpix htx]

/-! ### FLUSH -/

/-- FLUSH neither drives the reset line nor waits (R215). -/
theorem flushCalls_quiet {s : State} {w : Window} {e : Event} (h : e ∈ flushCalls s w) :
    (∀ l, e ≠ .gpioRst l) ∧ (∀ ms, e ≠ .sleep ms) := by
  rcases mem_flushCalls h with ⟨l, rfl⟩ | ⟨l, bs, rfl⟩ <;> simp

/-- The chunks leave DC alone (R218). -/
theorem levelAfter_chunks (l dc : Level) (bss : List (List Byte)) : levelAfter l (bss.map (.busXfer dc)) = l := by
  induction bss with
  | nil => rfl
  | cons bs bss ih => exact ih

/-- FLUSH ends with DC = HIGH, which only PIXEL_STREAM's start drives after SET_WINDOW (R218). -/
theorem levelAfter_flushCalls (l : Level) (s : State) (w : Window) : levelAfter l (flushCalls s w) = .high := by
  rw [flushCalls, levelAfter_append]
  exact levelAfter_chunks .high .high _

theorem transfersIn_chunks (dc : Level) (bss : List (List Byte)) :
    transfersIn (bss.map (.busXfer dc)) = bss.length := by
  induction bss with
  | nil => rfl
  | cons bs bss ih => rw [List.map_cons, transfersIn, List.countP_cons, ← transfersIn, ih]; rfl

/-- The five transfers of SET_WINDOW, then one for each chunk (R215, R218). -/
theorem transfersIn_flushCalls (s : State) (w : Window) :
    transfersIn (flushCalls s w) = 5 + (chunks s.cfg.maxXfer (flushPayload s w)).length := by
  rw [flushCalls, transfersIn_append, (setWindowCalls_ends s.par.cmd w .low).2,
    ← transfersIn_chunks .high (chunks s.cfg.maxXfer (flushPayload s w))]
  rfl

theorem admitted_flush_ready {s : State} (hl : s.life = .ready) : admitted .flush s.life = true := by rw [hl]; rfl

theorem flushPremise_eq_none {s : State} : flushPremise s = none ↔ s.fbPixels = frameBufferPixels s.cfg s.rot := by
  simp [flushPremise]

/-- FLUSH's registers on entry (R215). -/
theorem startOf_flush (w : Window) (s : State) :
    startOf (.flush w) s = { s with busy := true, xfers := 0, pix := 0, txbuf := [] } := rfl

/-- FLUSH's program from its entry, its calls answering `ok`, after the return. -/
theorem returnOk_finished_flushActions (s : State) (w : Window) :
    returnOk .flush (finished (flushActions s w) (startOf (.flush w) s)) = { s with
      win := w
      winValid := true
      pix := windowWidth w * windowHeight w
      txbuf := []
      dc := .high
      xfers := 5 + (chunks s.cfg.maxXfer (flushPayload s w)).length
      busy := false
      err := .ok
      trace := s.trace ++ okEntries (flushCalls s w)
      env := s.env.drop (flushCalls s w).length } := by
  simp only [startOf_flush, finished, callsFrom_flush, levelAfter_flushCalls, transfersIn_flushCalls, winFrom_flush,
    winValidFrom_flush, stepFrom_flush, pixelsFrom_flush, resetLineAfter_of_none fun e he => (flushCalls_quiet he).1,
    elapsed_of_none fun e he => (flushCalls_quiet he).2, Nat.add_zero, Nat.zero_add]
  rfl

/-- Settles O33, from what the whole program does (`returnOk_finished_flushActions`). -/
theorem flushCompletes : Obligations.FlushCompletes := by
  intro s w hidle hl hwf hfb hok
  have hbusy := (idle_iff.mp hidle).2
  rw [exec_finished (i := .flush w) rfl hidle (windowOk_of_wf hwf) (admitted_flush_ready hl)
    (flushPremise_eq_none.mpr hfb) (by rwa [callsOf_flush])]
  rw [opOf, programOf, returnOk_finished_flushActions, hbusy]

/-! ### FLUSH up to a call -/

/-- WIN is written by the SET_WINDOW in front, axis by axis (R204, R215). -/
theorem winFrom_flush_until (n : Nat) (s : State) (w v : Window) :
    winFrom v (untilCall n (flushActions s w)) =
      if n < 4 then v else if n < 8 then { v with xs := w.xs, xe := w.xe } else w := by
  rw [untilCall_flush]
  by_cases hn : n < 10
  · rw [if_pos hn, winFrom_setWindow_until hn]
  · rw [if_neg hn, if_neg (by omega), if_neg (by omega), winFrom_append, winFrom_setWindow, winFrom_append,
      serializeActions, winFrom_serialize, winFrom_calls fun a ha => stream_calls _ a (mem_untilCall ha)]

/-- SERIALIZE makes no call, so at a call none or all of the pixels are read (R217). -/
theorem pix_flush_until (n : Nat) (s : State) (w : Window) :
    (pixelsFrom s.fb ([], 0) (untilCall n (flushActions s w))).2 =
      if n < 10 then 0 else windowWidth w * windowHeight w := by
  rw [untilCall_flush]
  by_cases hn : n < 10
  · rw [if_pos hn, if_pos hn, pixelsFrom_setWindow_until hn]
  · rw [if_neg hn, if_neg hn, pixelsFrom_append, pixelsFrom_setWindow, pixelsFrom_append, serializeActions,
      pixelsFrom_serialize, pixelsFrom_calls fun a ha => stream_calls _ a (mem_untilCall ha), Nat.zero_add,
      windowAddresses_length]

theorem stepFrom_flush_until (n : Nat) (s : State) (w : Window) (k : BitVec 5) :
    stepFrom k (untilCall n (flushActions s w)) = k :=
  stepFrom_of_still (fun a ha => programOf_noStep (i := .flush w) (by simp) s a (mem_untilCall ha)) k

/-- FLUSH's program from its entry, its n-th call (from 0) failing, after the abort (R223, R245). -/
theorem takeAbort_stopped_flushActions (n : Nat) (s : State) (w : Window) (e : Result) :
    takeAbort .flush e (stopped (flushActions s w) n (startOf (.flush w) s)) = { s with
      win := if n < 4 then s.win else if n < 8 then { s.win with xs := w.xs, xe := w.xe } else w
      winValid := false
      pix := if n < 10 then 0 else windowWidth w * windowHeight w
      txbuf := []
      dc := levelAfter s.dc ((flushCalls s w).take n)
      xfers := transfersIn ((flushCalls s w).take n)
      busy := false
      err := e
      trace := s.trace ++ traceToFailure (flushCalls s w) n
      env := s.env.drop (n + 1) } := by
  have hquiet : ∀ e ∈ (flushCalls s w).take n, (∀ l, e ≠ .gpioRst l) ∧ (∀ ms, e ≠ .sleep ms) :=
    fun e he => flushCalls_quiet (List.mem_of_mem_take he)
  simp only [startOf_flush, stopped, callsFrom_flush, winFrom_flush_until, pix_flush_until, stepFrom_flush_until,
    resetLineAfter_of_none fun e he => (hquiet e he).1, elapsed_of_none fun e he => (hquiet e he).2, Nat.add_zero,
    Nat.zero_add]
  rfl

/-- Settles O34: `takeAbort_stopped_flushActions` up to the failing call. -/
theorem flushAborts : Obligations.FlushAborts := by
  intro s w n hidle hl hwf hfb hn hf
  have hbusy := (idle_iff.mp hidle).2
  have hcalls := callsOf_flush w s
  rw [exec_stopped (i := .flush w) rfl hidle (windowOk_of_wf hwf) (admitted_flush_ready hl)
    (flushPremise_eq_none.mpr hfb) (by rwa [hcalls]) hf]
  rw [hcalls, opOf, programOf, takeAbort_stopped_flushActions, hbusy]

/-! ### A successful FLUSH -/

theorem countDcDrives_append (xs ys : List Entry) :
    countDcDrives (xs ++ ys) = countDcDrives xs + countDcDrives ys := List.countP_append

theorem countDcDrives_chunks (dc : Level) (bss : List (List Byte)) :
    countDcDrives (okEntries (bss.map (.busXfer dc))) = 0 := by
  simp [countDcDrives, okEntries]

/-- Three LOW, two HIGH for the range data, one HIGH for the pixels (R225). -/
theorem countDcDrives_flush (s : State) (w : Window) : countDcDrives (okEntries (flushCalls s w)) = 6 := by
  rw [flushCalls, List.append_cons, okEntries_append, countDcDrives_append, countDcDrives_chunks, setWindowCalls_eq]
  rfl

/-- "FLUSH calls no `Sleep`" (R215). -/
theorem countSleeps_flush (s : State) (w : Window) : countSleeps (okEntries (flushCalls s w)) = 0 := by
  rw [countSleeps, okEntries, List.countP_map, List.countP_eq_zero]
  intro e he
  rcases mem_flushCalls he with ⟨l, rfl⟩ | ⟨l, bs, rfl⟩ <;> simp

theorem wireBytes_append (v w : Wire) : wireBytes (v ++ w) = wireBytes v ++ wireBytes w := List.flatMap_append

theorem wireBytes_chunks (dc : Level) (bss : List (List Byte)) :
    wireBytes (bss.map fun bs => (dc, bs)) = bss.flatten := by
  rw [wireBytes, List.flatMap_map]
  exact List.flatMap_id'

/-- Three command bytes, eight of the ranges, two for each pixel (R225). -/
theorem wireBytes_flush_length {s : State} (hn : noMeaning s = none) (w : Window) :
    (wireBytes (wire (okEntries (flushCalls s w)))).length = 3 + 8 + 2 * (windowWidth w * windowHeight w) := by
  rw [wire_flush, wireBytes_append, wireBytes_chunks, chunks_flatten (maxXfer_pos hn), List.length_append,
    flushPayload_length]
  rfl

/-- How many transfers a FLUSH makes: one payload transfer with no limit, ceil(2wh/m) with a limit m (R225). -/
theorem transfers_flush {s : State} (hn : noMeaning s = none) (w : Window) :
    (s.cfg.maxXfer = none → 5 + (chunks s.cfg.maxXfer (flushPayload s w)).length = 6) ∧
    (∀ m, s.cfg.maxXfer = some m → 5 + (chunks s.cfg.maxXfer (flushPayload s w)).length =
      5 + (2 * (windowWidth w * windowHeight w) + m - 1) / m) := by
  constructor
  · intro hnone
    rw [hnone, chunks_none (flushPayload_ne_nil s w)]
    rfl
  · intro m hm
    rw [hm, chunks_some_length (maxXfer_pos hn m hm), flushPayload_length]

theorem countXfers_flush (s : State) (w : Window) :
    countXfers (okEntries (flushCalls s w)) = 5 + (chunks s.cfg.maxXfer (flushPayload s w)).length := by
  rw [countXfers, wire_flush, List.length_append, List.length_map]
  rfl

/-- Settles O35: what a successful FLUSH adds to TRACE are its calls (`flush_returned`), and those are counted. -/
theorem flushCounts : Obligations.FlushCounts := by
  intro s t w h herr
  obtain ⟨hidle, -, -, -, hentries, -⟩ := flush_returned h herr
  have hn := (idle_iff.mp hidle).1
  rw [hentries, countXfers_flush]
  exact ⟨countDcDrives_flush s w, countSleeps_flush s w, wireBytes_flush_length hn w, windowAddresses_length ..,
    transfers_flush hn w⟩

/-! ### FLUSH_FULL -/

/-- The last index of an axis of the visible area lies `n - 1` past its offset, with no wrap (R73). -/
theorem visible_end_toNat {offset n extent : Half} (hn : n = 128#16) (h : offset.toNat + n.toNat ≤ extent.toNat) :
    (offset + n - 1#16).toNat = offset.toNat + n.toNat - 1 := by
  have hlt := extent.isLt
  subst hn
  bv_omega

theorem cfgWf_geometry {g : Cfg} (h : cfgWf g = true) :
    g.nativeW = 128#16 ∧ g.nativeH = 128#16 ∧ g.xOffset.toNat + g.nativeW.toNat ≤ g.virtW.toNat ∧
      g.yOffset.toNat + g.nativeH.toNat ≤ g.virtH.toNat := by
  simp only [cfgWf, Bool.and_eq_true, decide_eq_true_eq] at h
  obtain ⟨⟨⟨⟨hw, hh⟩, hx⟩, hy⟩, -⟩ := h
  exact ⟨hw, hh, hx, hy⟩

theorem cfgWf_of_hasMeaning {s : State} (h : noMeaning s = none) : cfgWf s.cfg = true := by
  have hp := (noMeaning_eq_none.mp h).2
  simp only [parametersWf, Bool.and_eq_true] at hp
  exact hp.1.1.1.1.1

section

variable {g : Cfg} (hg : cfgWf g = true) {rot : Rotation}

include hg

/-- VIS where the axes are not swapped (R73). -/
theorem visibleWindow_upright (hrot : axesSwapped rot = false) :
    (visibleWindow g rot).xs.toNat = g.xOffset.toNat ∧
    (visibleWindow g rot).xe.toNat = g.xOffset.toNat + g.nativeW.toNat - 1 ∧
    (visibleWindow g rot).ys.toNat = g.yOffset.toNat ∧
    (visibleWindow g rot).ye.toNat = g.yOffset.toNat + g.nativeH.toNat - 1 := by
  obtain ⟨hw, hh, hx, hy⟩ := cfgWf_geometry hg
  simp only [visibleWindow, hrot]
  exact ⟨rfl, visible_end_toNat hw hx, rfl, visible_end_toNat hh hy⟩

/-- VIS where the axes are swapped (R73). -/
theorem visibleWindow_swapped (hrot : axesSwapped rot = true) :
    (visibleWindow g rot).xs.toNat = g.yOffset.toNat ∧
    (visibleWindow g rot).xe.toNat = g.yOffset.toNat + g.nativeH.toNat - 1 ∧
    (visibleWindow g rot).ys.toNat = g.xOffset.toNat ∧
    (visibleWindow g rot).ye.toNat = g.xOffset.toNat + g.nativeW.toNat - 1 := by
  obtain ⟨hw, hh, hx, hy⟩ := cfgWf_geometry hg
  simp only [visibleWindow, hrot]
  exact ⟨rfl, visible_end_toNat hh hy, rfl, visible_end_toNat hw hx⟩

/-- VIS is well-formed under every rotation and has 128 columns and 128 rows (R73). -/
theorem visibleWindow_wf :
    windowWf g rot (visibleWindow g rot) = true ∧ windowWidth (visibleWindow g rot) = 128 ∧
      windowHeight (visibleWindow g rot) = 128 := by
  obtain ⟨hw, hh, hx, hy⟩ := cfgWf_geometry hg
  have hw' : g.nativeW.toNat = 128 := by rw [hw]; rfl
  have hh' : g.nativeH.toNat = 128 := by rw [hh]; rfl
  rw [windowWf_iff]
  cases hrot : axesSwapped rot with
  | false =>
    obtain ⟨hxs, hxe, hys, hye⟩ := visibleWindow_upright hg hrot
    simp only [colExtent, rowExtent, windowWidth, windowHeight, hrot, hxs, hxe, hys, hye, Bool.false_eq_true, if_false]
    omega
  | true =>
    obtain ⟨hxs, hxe, hys, hye⟩ := visibleWindow_swapped hg hrot
    simp only [colExtent, rowExtent, windowWidth, windowHeight, hrot, hxs, hxe, hys, hye, if_true]
    omega

end

/-- Settles O36: VIS by its axes (`visibleWindow_upright`, `visibleWindow_swapped`), then a successful FLUSH of a window
of 128 by 128 pixels. -/
theorem flushFullSendsTheVisibleWindow : Obligations.FlushFullSendsTheVisibleWindow := by
  rintro s t vis rfl
  refine ⟨fun hg => ⟨(visibleWindow_wf hg).1, fun hrot => visibleWindow_upright hg ?_,
    fun hrot => visibleWindow_swapped hg ?_⟩, rfl, fun h herr => ?_⟩
  · rcases hrot with hrot | hrot <;> rw [hrot] <;> rfl
  · rcases hrot with hrot | hrot <;> rw [hrot] <;> rfl
  · obtain ⟨hidle, -, -, -, hentries, -, ht⟩ := flush_returned h herr
    have hn := (idle_iff.mp hidle).1
    obtain ⟨-, hwidth, hheight⟩ := visibleWindow_wf (cfgWf_of_hasMeaning hn) (rot := s.rot)
    have hbytes := wireBytes_flush_length hn (visibleWindow s.cfg s.rot)
    have htransfers := transfers_flush hn (visibleWindow s.cfg s.rot)
    rw [hwidth, hheight] at hbytes htransfers
    rw [returnOk_finished_flushActions, hwidth, hheight] at ht
    rw [hentries]
    refine ⟨by rw [ht], by rw [wire_flush]; rfl, by rw [ht], hbytes, ?_⟩
    rw [ht]
    exact htransfers

/-! ### Two FLUSHes -/

/-- FLUSH's calls depend on nothing but the window, the command bytes, MAX_XFER and the pixel values (R220, R221). -/
theorem flushCalls_congr {s t : State} {w : Window} (hcmd : s.par.cmd = t.par.cmd)
    (hmax : s.cfg.maxXfer = t.cfg.maxXfer)
    (hpixels : ∀ k < windowWidth w * windowHeight w, flushPixel s w k = flushPixel t w k) :
    flushCalls s w = flushCalls t w := by
  have hpayload : flushPayload s w = flushPayload t w :=
    List.flatMap_congr fun k hk => congrArg be16 (hpixels k (List.mem_range.mp hk))
  rw [flushCalls, flushCalls, hcmd, hmax, hpayload]

/-- Settles O37: two successful FLUSHes with equal calls add equal entries, and a FLUSH writes nothing that its calls
depend on. -/
theorem flushTraceDependsOnPixelsOnly : Obligations.FlushTraceDependsOnPixelsOnly := by
  constructor
  · intro s t s' t' w hcmd hmax hpixels hs herr ht herr'
    obtain ⟨-, -, -, -, hentries, -⟩ := flush_returned hs herr
    obtain ⟨-, -, -, -, hentries', -⟩ := flush_returned ht herr'
    rw [hentries, hentries', flushCalls_congr hcmd hmax hpixels]
  · intro s t u w hs herr ht herr'
    obtain ⟨-, -, -, -, hentries, -, hreturned⟩ := flush_returned hs herr
    obtain ⟨-, -, -, -, hentries', -⟩ := flush_returned ht herr'
    rw [returnOk_finished_flushActions] at hreturned
    have hsame : flushCalls s w = flushCalls t w := by
      rw [hreturned]
      exact flushCalls_congr rfl rfl fun _ _ => rfl
    rw [hentries, hentries', hsame]

end Sys2Proof.Machine

/-! SUPPORT. Admission and what becomes of LIFE (spec/60_exceptions.md Table 60-C, R250, R252): what an admitted operation
leaves, what a rejected one does, and where no transfer is made. -/

namespace Sys2Proof.Machine

open Sys2Proof

/-! ### Admission -/

/-- Where FLUSH is admitted (Table 60-C). -/
theorem admitted_flush_iff {l : Life} : admitted .flush l = true ↔ l = .ready := by cases l <;> decide

/-- Where SET_WINDOW is admitted (Table 60-C). -/
theorem admitted_setWindow_iff {l : Life} : admitted .setWindow l = true ↔ l = .ready := by cases l <;> decide

/-- An admitted operation does not report ORDER, and LIFE tells whether it returned Ok (Tables 60-B and 60-C). -/
theorem admitted_outcome {i : Instr} {s t : State} (hi : isOperation i = true) (ha : admitted (opOf i) s.life = true)
    (h : exec i s = .next t) :
    t.err ≠ .sequenceError .order ∧
      t.life = if t.err = .ok then lifeOnOk (opOf i) (startOf i s).life
        else lifeOnAbort (opOf i) (startOf i s).life := by
  rcases operation_status hi h with ⟨hrejected, -⟩ | ⟨-, hok, hlife, -⟩ | ⟨-, hne, horder, hlife, -⟩
  · rw [ha] at hrejected
    cases hrejected
  · rw [if_pos hok, hok]
    exact ⟨by simp, hlife⟩
  · rw [if_neg hne]
    exact ⟨horder, hlife⟩

/-- FLUSH, SET_WINDOW and SEND, where admitted, keep LIFE whether they return Ok or abort (Tables 60-B and 60-C). -/
theorem admitted_keeps_life {i : Instr} {s t : State} (hop : opOf i = .flush ∨ opOf i = .setWindow ∨ opOf i = .send)
    (hi : isOperation i = true) (ha : admitted (opOf i) s.life = true) (h : exec i s = .next t) :
    t.err ≠ .sequenceError .order ∧ t.life = s.life := by
  obtain ⟨horder, hlife⟩ := admitted_outcome hi ha h
  have hne : i ≠ .hwReset := by rintro rfl; simp [opOf] at hop
  rw [startOf_life, if_neg hne] at hlife
  refine ⟨horder, ?_⟩
  rcases hop with hop | hop | hop <;> rw [hop] at hlife <;> exact hlife.trans (ite_self _)

/-- Settles O9: an admitted operation by `admitted_outcome` and `admitted_keeps_life`, another one by `exec_rejected`. -/
theorem admissionAndLifecycle : Obligations.AdmissionAndLifecycle := by
  intro s t rot order w cmd data hidle
  refine ⟨admitted_outcome rfl rfl, fun hl => admitted_outcome rfl (admitted_init_resetDone hl), fun hl => ?_,
    fun hw => ⟨fun hl h => ?_, fun hl => ⟨?_, ?_⟩⟩, fun hl => ?_, fun hl => ?_⟩
  · exact exec_rejected rfl hidle (operandsOk_init rot order s) (Bool.eq_false_iff.mpr (mt admitted_init_iff.mp hl))
  · rw [← hl]
    rcases h with h | h
    · exact admitted_keeps_life (i := .flush w) (.inl rfl) rfl (admitted_flush_ready hl) h
    · exact admitted_keeps_life (i := .setWindow w) (.inr (.inl rfl)) rfl (admitted_setWindow_ready hl) h
  · exact exec_rejected (i := .flush w) rfl hidle hw (Bool.eq_false_iff.mpr (mt admitted_flush_iff.mp hl))
  · exact exec_rejected (i := .setWindow w) rfl hidle hw (Bool.eq_false_iff.mpr (mt admitted_setWindow_iff.mp hl))
  · exact admitted_keeps_life (.inr (.inr rfl)) rfl (admitted_send hl)
  · refine exec_rejected rfl hidle (operandsOk_send cmd data s) ?_
    rcases hl with hl | hl <;> rw [hl] <;> rfl

/-! ### Where no transfer is made -/

/-- Where an instruction other than HW_RESET can run: an operation where it is admitted, a frame in its place (Table 60-C,
R183). -/
theorem life_of_running {i : Instr} {s : State} (hne : i ≠ .hwReset)
    (hop : isOperation i = true → admitted (opOf i) s.life = true)
    (hframe : isOperation i = false → placeOf i s = true) : s.life = .resetDone ∨ s.life = .ready := by
  cases hi : isOperation i with
  | true => exact life_of_admitted (opOf_ne_hwReset hi hne) (hop hi)
  | false =>
    rw [life_of_place (hframe hi)]
    cases inWindow i s with
    | true => exact .inr rfl
    | false => exact .inl rfl

/-- An instruction other than HW_RESET that made a call stood in RESET_DONE or READY (R252). -/
theorem newEntries_eq_nil_or_life {i : Instr} {s t : State} (hne : i ≠ .hwReset) (h : exec i s = .next t) :
    newEntries s t = [] ∨ s.life = .resetDone ∨ s.life = .ready := by
  rcases exec_ran h with ⟨-, -, -, hran⟩ | ⟨-, -, hop, hframe⟩ | ⟨n, -, -, -, hop, hframe⟩
  · exact .inl hran.newEntries
  · exact .inr (life_of_running hne (fun hi => (hop hi).1) fun hi => (hframe hi).1)
  · exact .inr (life_of_running hne (fun hi => (hop hi).1) fun hi => (hframe hi).1)

/-- Settles O13: HW_RESET's calls are drives and waits (R140); in UNRESET and FAILED no other instruction makes a call. -/
theorem noTransferInUnresetOrFailed : Obligations.NoTransferInUnresetOrFailed := by
  intro s t i h hor
  by_cases hi : i = .hwReset
  · subst hi
    exact List.filterMap_eq_nil_iff.mpr fun e he => hwResetCalls_noTransfer (newEntries_event_mem h he)
  · rcases newEntries_eq_nil_or_life hi h with hnil | hlife
    · rw [hnil]
      rfl
    · exfalso
      rcases hor with hreset | hl | hl
      · exact hi hreset
      · simp [hl] at hlife
      · simp [hl] at hlife

end Sys2Proof.Machine

/-! SUPPORT. Recovery (spec/60_exceptions.md R247): RESET_AND_INIT (spec/30_encoding.md R106), and a FLUSH issued again
after one that failed (spec/44_pixel_pipeline.md R223). -/

namespace Sys2Proof.Machine

open Sys2Proof

/-- RESET_AND_INIT whose HW_RESET returned Ok is INITIALIZE from where that left (R106). -/
theorem resetAndInit_of_ok {s t : State} (h : exec .hwReset s = .next t) (he : t.err = .ok) (rot : Rotation)
    (order : ColorOrder) : resetAndInit rot order s = exec (.init rot order) t := by
  change outThen (exec .hwReset s) _ = _
  rw [h]
  exact if_pos he

/-- What a FLUSH rests on besides the handle: a FLUSH of READY, returned or failed, leaves it as it was. -/
theorem flush_keeps_premises {s t : State} {w : Window} (h : exec (.flush w) s = .next t) (hl : s.life = .ready) :
    t.life = .ready ∧ windowWf t.cfg t.rot w = true ∧ t.fbPixels = frameBufferPixels t.cfg t.rot ∧
      flushCalls t w = flushCalls s w := by
  obtain ⟨-, hwindow, ⟨ha, -⟩ | ⟨-, hpremise, -⟩⟩ := operation_next (i := .flush w) rfl h
  · rw [opOf, admitted_flush_ready hl] at ha
    cases ha
  obtain ⟨calls, failed, hran⟩ := exec_keeps h
  have hrot : t.rot = s.rot := ((onlyInitializeWritesOrientation s t _ h).2 (.inl fun _ _ => by simp)).1
  have hlife := (admitted_keeps_life (i := .flush w) (.inl rfl) rfl (admitted_flush_ready hl) h).2
  rw [operandsOk_flush, windowOk_ready hl] at hwindow
  refine ⟨hlife.trans hl, ?_, ?_, flushCalls_congr (by rw [hran.par]) (by rw [hran.cfg]) fun k _ => ?_⟩
  · rwa [hran.cfg, hrot]
  · rw [hran.fbPixels, hran.cfg, hrot]
    exact flushPremise_eq_none.mp hpremise
  · rw [flushPixel, flushPixel, hran.cfg, hran.fb, hrot]

/-- Settles O41: HW_RESET then INITIALIZE by `hwResetCompletes` and `initializeCompletes`; the FLUSH issued again by
`flushCompletes`, whose premises the failed one left (`flush_keeps_premises`). -/
theorem recoveryReachesReady : Obligations.RecoveryReachesReady := by
  refine ⟨fun s rot order hidle hok => ?_, fun s t w h hl _ hok => ?_⟩
  · have hreset := (hwResetCompletes s hidle (answersOk_le hok (Nat.le_add_right _ _))).1
    have hinit := (initializeCompletes _ rot order (idle_after rfl hreset) rfl (answersOk_drop hok rfl)).1
    refine ⟨_, (resetAndInit_of_ok hreset rfl rot order).trans hinit, rfl, rfl, rfl, rfl, ?_⟩
    rw [okEntries_append, ← List.append_assoc]
  · obtain ⟨hlife, hwindow, hfb, hcalls⟩ := flush_keeps_premises h hl
    rw [← hcalls] at hok ⊢
    exact ⟨_, flushCompletes t w (idle_after rfl h) hlife hwindow hfb hok, rfl, rfl, rfl⟩

end Sys2Proof.Machine

/-! SUPPORT. Requested sleep and the reset state (spec/70_reset_and_hazards.md R280, R295). -/

namespace Sys2Proof.Machine

open Sys2Proof

/-- Settles O56: `step_keeps_timed`, over the cases of a step and the effect of an instruction on LIFE (`exec_effect`). -/
theorem stepKeepsSleepBounds : Obligations.StepKeepsSleepBounds := fun _ _ => step_keeps_timed

/-- Block reset, with nothing asked and nothing answered yet, starts a run. -/
theorem reachable_reset : Reachable State.reset := .start [] []

/-- Settles O58: the reset state is the first one of a run, and O59 holds of every state of a run. -/
theorem resetIsLegal : Obligations.ResetIsLegal := by
  obtain ⟨hbusy, hlegal, hframed, hsettled, htimed, hmirror⟩ := reachableStatesAreLegal _ reachable_reset
  exact ⟨hlegal, hframed, hsettled, htimed, hmirror, hbusy⟩

end Sys2Proof.Machine

/-! SUPPORT. Which parameters are well-formed (spec/70_reset_and_hazards.md R284, spec/00_scope.md Table 00-A,
spec/42_initializer.md R158): each check in the terms of its rule, then all of them together. -/

namespace Sys2Proof

/-- The geometry and the transfer limit (Table 00-A). -/
theorem cfgWf_iff {g : Cfg} :
    cfgWf g = true ↔
      g.nativeW = 128#16 ∧ g.nativeH = 128#16 ∧ g.xOffset.toNat + g.nativeW.toNat ≤ g.virtW.toNat ∧
        g.yOffset.toNat + g.nativeH.toNat ≤ g.virtH.toNat ∧ ∀ m, g.maxXfer = some m → 16 ≤ m := by
  unfold cfgWf
  cases g.maxXfer <;> simp [and_assoc]

/-- The five delay minimums (Table 00-A). -/
theorem delaysWf_iff {d : Delays} :
    delaysWf d = true ↔
      1 ≤ d.rstAssert ∧ 10 ≤ d.rstHold ∧ 120 ≤ d.rstSettle ∧ 120 ≤ d.sleepExit ∧ 120 ≤ d.displayOn := by
  simp [delaysWf, and_assoc]

/-- A single-bit mask is 1 shifted left by less than a byte. -/
theorem singleBit_iff_shift {m : Byte} : singleBit m = true ↔ ∃ b < 8, m = 1#8 <<< b := by
  rw [Machine.singleBit_iff]
  simp only [Machine.singleBits, List.mem_map, List.mem_range, eq_comm]

/-- Four pairwise different single-bit masks (Table 00-A). -/
theorem masksWf_iff {m : Masks} :
    masksWf m = true ↔
      (∀ x ∈ [m.mx, m.my, m.mv, m.rgb], ∃ b < 8, x = 1#8 <<< b) ∧ [m.mx, m.my, m.mv, m.rgb].Nodup := by
  simp only [masksWf, Bool.and_eq_true, decide_eq_true_eq, singleBit_iff_shift, List.forall_mem_cons,
    List.not_mem_nil, false_implies, implies_true, and_true, and_assoc]

/-- The command bytes are pairwise different (R98): every kind stands once in `allKinds`. -/
theorem cmdWf_iff {c : CmdBytes} : cmdWf c = true ↔ ∀ k l : FrameKind, cmdOf c k = cmdOf c l → k = l := by
  have hkinds : allKinds.Nodup := by decide
  simp only [cmdWf, decide_eq_true_eq, List.nodup_map_iff_inj_on hkinds, mem_allKinds, true_implies]

/-- The lengths of the constant payloads (R158). -/
theorem payloadWf_iff {p : Payloads} :
    payloadWf p = true ↔ p.gammaA.length = 16 ∧ p.gammaB.length = 16 ∧ ∀ d ∈ allPayloads p, d.length ≤ 16 := by
  simp only [payloadWf, Bool.and_eq_true, decide_eq_true_eq, List.all_eq_true, and_assoc]

/-- The pre-seed window lies below the smaller extent exactly when every rotation makes it well-formed (R158): 0 and 90
degrees put each axis against both extents (R63). -/
theorem preseedWf_iff {g : Cfg} {w : Window} : preseedWf g w = true ↔ ∀ rot, windowWf g rot w = true := by
  simp only [preseedWf, Bool.and_eq_true, decide_eq_true_eq, BitVec.le_def, lt_min_iff, Machine.windowWf_iff]
  constructor
  · rintro ⟨⟨⟨hx, hxw, hxh⟩, hy⟩, hyw, hyh⟩ rot
    cases rot
    case deg0 | deg180 => exact ⟨hx, hxw, hy, hyh⟩
    case deg90 | deg270 => exact ⟨hx, hxh, hy, hyw⟩
  · intro h
    obtain ⟨hx, hxw, hy, hyh⟩ := h .deg0
    obtain ⟨-, hxh, -, hyw⟩ := h .deg90
    exact ⟨⟨⟨hx, hxw, hxh⟩, hy⟩, hyw, hyh⟩

/-- The six checks (R284). -/
theorem parametersWf_iff {g : Cfg} {p : Params} :
    parametersWf g p = true ↔
      cfgWf g = true ∧ delaysWf p.delays = true ∧ masksWf p.masks = true ∧ cmdWf p.cmd = true ∧
        payloadWf p.payload = true ∧ preseedWf g p.preseed = true := by
  simp only [parametersWf, Bool.and_eq_true, and_assoc]

end Sys2Proof

/-! SUPPORT. What has no meaning (spec/70_reset_and_hazards.md R283, R284, R289, R292, R293): the refusals of the instructions
and of the host's requests, and the one fault. -/

namespace Sys2Proof.Machine

open Sys2Proof

/-! ### The handle and its parameters -/

/-- No PanelHandle exists (R293). -/
theorem noMeaning_of_detached {s : State} (h : s.attached = false) : noMeaning s = some .noPanelHandle := by
  simp [noMeaning, h]

/-- A PanelHandle with ill-formed parameters (R284). -/
theorem noMeaning_of_illFormed {s : State} (ha : s.attached = true) (hp : parametersWf s.cfg s.par = false) :
    noMeaning s = some .illFormedParameters := by
  simp [noMeaning, ha, hp]

/-- Block reset of an idle handle (R280). -/
theorem serveAttach_wellFormed {s : State} {cfg : Cfg} {par : Params} (hb : s.busy = false)
    (hp : parametersWf cfg par = true) :
    serve (.attach cfg par) s = .next { State.blockReset cfg par with
      fb := s.fb, fbPixels := s.fbPixels, env := s.env, requests := s.requests } := by
  simp [serve, serveAttach, hb, hp]

theorem serveAttach_illFormed {s : State} {cfg : Cfg} {par : Params} (hb : s.busy = false)
    (hp : parametersWf cfg par = false) : serve (.attach cfg par) s = .refused .illFormedParameters := by
  simp [serve, serveAttach, hb, hp]

/-- A detach of an idle handle (R293). -/
theorem serveDetach_idle {s : State} (hb : s.busy = false) (ha : s.attached = true) :
    serve .detach s = .next { s with attached := false } := by
  simp [serve, serveDetach, hb, ha]

/-- A step serves the request at the head of the host's list. -/
theorem step_request {s : State} {r : Request} {rest : List Request} (h : s.requests = r :: rest) :
    step s = serve r { s with requests := rest } := by
  rw [step, h]

/-- Settles O45: the refusals of ill-formed parameters, and the six checks of `parametersWf`, each in the terms of its rule. -/
theorem illFormedParametersAreRefused : Obligations.IllFormedParametersAreRefused := by
  refine ⟨fun s i ha hp => exec_noMeaning i (noMeaning_of_illFormed ha hp), fun s cfg par => serveAttach_illFormed,
    fun cfg par => ?_⟩
  rw [parametersWf_iff, cfgWf_iff, delaysWf_iff, masksWf_iff, cmdWf_iff, payloadWf_iff, preseedWf_iff]
  constructor
  · rintro ⟨⟨hw, hh, hx, hy, hxfer⟩, ⟨hassert, hhold, hsettle, hexit, hon⟩, ⟨hbits, hdiff⟩, hcmd, ⟨hga, hgb, hlen⟩, hseed⟩
    exact ⟨hw, hh, hassert, hhold, hsettle, hexit, hon, hcmd, hbits, hdiff, hga, hgb, hlen, hxfer, hx, hy, hseed⟩
  · rintro ⟨hw, hh, hassert, hhold, hsettle, hexit, hon, hcmd, hbits, hdiff, hga, hgb, hlen, hxfer, hx, hy, hseed⟩
    exact ⟨⟨hw, hh, hx, hy, hxfer⟩, ⟨hassert, hhold, hsettle, hexit, hon⟩, ⟨hbits, hdiff⟩, hcmd, ⟨hga, hgb, hlen⟩, hseed⟩

/-- Settles O46: the step serves the request (`serveAttach_wellFormed`, `serveDetach_idle`); without a handle nothing has a
meaning. -/
theorem attachAndDetach : Obligations.AttachAndDetach := by
  refine ⟨fun s cfg par rest hr hb hp => ?_, fun s rest hr hb ha => ?_, fun s i ha => ?_⟩
  · refine ⟨_, (step_request hr).trans (serveAttach_wellFormed hb hp), ?_⟩
    exact ⟨rfl, rfl, rfl, rfl, rfl, rfl, rfl, rfl, rfl, rfl, rfl, rfl, rfl, rfl, rfl, rfl, rfl⟩
  · exact (step_request hr).trans (serveDetach_idle hb ha)
  · exact exec_noMeaning i (noMeaning_of_detached ha)

/-! ### An operation in progress -/

/-- A host operation while another is in progress (R289). -/
theorem operation_busy {i : Instr} {s : State} (hi : isOperation i = true) (hp : inProgress s = true) :
    exec i s = .refused .busy := by
  obtain ⟨hn, hb⟩ := inProgress_iff.mp hp
  simp [exec_operation hi, issue, hn, hb]

/-- Settles O44: `operation_busy` for the operations; each request tests BUSY before it does anything else, a detach once
the handle exists. -/
theorem busyHostIsRefused : Obligations.BusyHostIsRefused := by
  intro s i a n v cfg par hp
  obtain ⟨hn, hb⟩ := inProgress_iff.mp hp
  have ha := (noMeaning_eq_none.mp hn).1
  refine ⟨fun hi => operation_busy hi hp, ?_, ?_, ?_, ?_⟩
  · exact if_pos hb
  · exact if_pos hb
  · exact if_pos hb
  · simp [serve, serveDetach, ha, hb]

/-! ### The FrameBuffer's size -/

/-- An admitted operation whose premise is not met. -/
theorem operation_premise {i : Instr} {s : State} {r : Refusal} (hi : isOperation i = true) (hidle : idle s = true)
    (hwf : operandsOk i s = true) (ha : admitted (opOf i) s.life = true) (hp : premiseOf i s = some r) :
    exec i s = .refused r := by
  obtain ⟨hn, hb⟩ := idle_iff.mp hidle
  simp [exec_operation hi, issue, hn, hb, hwf, ha, hp]

/-- Settles O60: an admitted FLUSH fails its premise (`operation_premise`), any other is rejected before it is tested. -/
theorem wrongFrameBufferSizeIsRefused : Obligations.WrongFrameBufferSizeIsRefused := by
  intro s w hidle hw hfb
  refine ⟨fun hl => ?_, fun hl => ?_⟩
  · exact operation_premise (i := .flush w) rfl hidle hw (admitted_flush_ready hl) (if_neg hfb)
  · exact exec_rejected (i := .flush w) rfl hidle hw
      (Bool.eq_false_iff.mpr fun ha => hl (admitted_flush_iff.mp ha))

/-! ### The fault -/

theorem everyCallAnswered_eq_false_iff {s : State} : everyCallAnswered s = false ↔ .hang ∈ s.env := by
  simp [everyCallAnswered]

/-- A program hangs only where an answer is missing (R283). -/
theorem hang_mem_of_runActions_hung {as : List Action} {s : State} (h : runActions as s = .hung) : .hang ∈ s.env := by
  rcases runActions_total as s with ⟨-, hr⟩ | ⟨n, -, -, hr⟩ | ⟨-, hmem⟩
  · rw [hr] at h
    cases h
  · rw [hr] at h
    cases h
  · exact hmem

theorem conclude_fault {op : HostOp} {p : Progress} {r : Fault} (h : conclude op p = .fault r) : p = .hung := by
  cases p with
  | through s => cases h
  | raised e s => cases h
  | hung => rfl

/-- An operation faults only where its body hangs: every test before the body refuses or rejects. -/
theorem issue_fault {op : HostOp} {ok : Bool} {premise : Option Refusal} {body : State → Progress} {s : State} {r : Fault}
    (h : issue op ok premise body s = .fault r) : body s.enter = .hung := by
  unfold issue at h
  split at h
  · cases h
  split at h
  · cases h
  split at h
  · cases h
  split at h
  · cases h
  split at h
  · cases h
  exact conclude_fault h

/-- A frame faults only where its program hangs. -/
theorem runFrame_fault {op : HostOp} {place ok : Bool} {body : List Action} {s : State} {r : Fault}
    (h : runFrame op place ok body s = .fault r) : runActions body s = .hung := by
  unfold runFrame at h
  split at h
  · cases h
  split at h
  · cases h
  split at h
  · cases h
  split at h
  · cases h
  · cases h
  · assumption

/-- Settles O42: operations and frames fault where their program hangs (`issue_fault`, `runFrame_fault`), and entering an
operation uses up no answer. -/
theorem onlyAMissingAnswerFaults : Obligations.OnlyAMissingAnswerFaults := by
  intro s i r h
  refine ⟨by cases r; rfl, everyCallAnswered_eq_false_iff.mpr ?_⟩
  cases hi : isOperation i with
  | true =>
    rw [exec_operation hi] at h
    have hmem : .hang ∈ (startOf i s).env := hang_mem_of_runActions_hung (issue_fault h)
    rwa [startOf_env] at hmem
  | false =>
    rw [exec_frame hi] at h
    exact hang_mem_of_runActions_hung (runFrame_fault h)

end Sys2Proof.Machine

/-! SUPPORT. The words written out from Tables 30-A and 30-B (spec/30_encoding.md), by way of the encoder. -/

namespace Sys2Proof.Machine

open Sys2Proof

/-- Under the default command bytes, what the encoder writes for an instruction decodes to it. -/
theorem decode_defaultCmd_of_encode_eq {d : Descriptor} {i : Instr} (h : encode defaultCmd i = d) :
    decode defaultCmd d = .ok i :=
  h ▸ decodeInvertsEncode defaultCmd i (by decide)

/-- Settles O3: each word is what the encoder writes for its instruction, byte by byte, so it decodes to it. -/
theorem knownWordsDecode : Obligations.KnownWordsDecode := by
  unfold Obligations.KnownWordsDecode
  and_intros <;> exact decode_defaultCmd_of_encode_eq rfl

end Sys2Proof.Machine
